-- ==== Sys2Proof/Word.lean ====
section
/-! DEFINITION. The word of SVM-CORE is the mathematical integer, Lean's `Int` (spec/00_scope.md R13): cell values,
addresses and registers are `Int`, nothing is a bit vector and nothing wraps. This file holds the width parameter
that says which integers a cell may hold. -/

namespace Sys2Proof

/-- `CELL_BITS` (R11, R12): mathematical integers, or a finite two's-complement width. A legal finite width
is at least 2; the narrower ones are no configuration of the spec (log 4). -/
inductive CellBits where
  | unbounded
  | bits (w : Nat)
  deriving DecidableEq, Repr

end Sys2Proof
end

