-- ==== Sys2Proof/Config.lean ====
section
/-! DEFINITION. The launch parameters of spec/00_scope.md R11 as plain data. They are configuration: no step
changes them (spec/10_state.md R32). -/

namespace Sys2Proof

/-- `OPCODE_NUMBER` (R11, R32): the cell value of each of the 19 opcodes, one field an opcode in the order of
spec/30_encoding.md R63. Legal maps are injective (`OpcodeMap.wf` in Decode.lean; log 5). -/
structure OpcodeMap where
  invalid : Int
  iadd : Int
  isub : Int
  imul : Int
  ilt : Int
  ieq : Int
  br : Int
  brt : Int
  brf : Int
  iconst : Int
  load : Int
  gload : Int
  store : Int
  gstore : Int
  puts : Int
  pop : Int
  call : Int
  ret : Int
  halt : Int
  deriving DecidableEq, Repr

/-- The configuration of a launch (R11, R34). `stackCapacity` and `globalsSize` are integers because the launch
check R193 must see the values it refuses. -/
structure Config where
  /-- `CODE`: the program, cell 0 first. -/
  code : List Int
  /-- `START_IP`. -/
  startIp : Int
  /-- `STACK_CAPACITY`. -/
  stackCapacity : Int
  /-- `GLOBALS_SIZE`. -/
  globalsSize : Int
  /-- `CELL_BITS`. -/
  cellBits : CellBits
  /-- `FP_RESET`. -/
  fpReset : Int
  /-- `OPCODE_NUMBER`. -/
  opcodes : OpcodeMap
  deriving DecidableEq, Repr

/-- `L`, the number of code cells (R11). -/
def Config.len (c : Config) : Int := c.code.length

end Sys2Proof
end

