-- ==== Sys2Proof/Syntax.lean ====
section
/-! DEFINITION. The closed catalog of 19 opcodes and the instructions (spec/00_scope.md R2;
spec/30_encoding.md R60 to R63). -/

namespace Sys2Proof

/-- The opcodes, in the order of R63. -/
inductive Opcode where
  | invalid | iadd | isub | imul | ilt | ieq | br | brt | brf | iconst
  | load | gload | store | gstore | puts | pop | call | ret | halt
  deriving DecidableEq, Repr

/-- An instruction: an opcode with its operand cells, each the whole integer of its cell (R61). One constructor
for each row of spec/opcode_table.json. -/
inductive Instr where
  /-- Opcode 0 of R63; fetching it ends the run (R151). -/
  | invalid
  | iadd
  | isub
  | imul
  | ilt
  | ieq
  /-- `BR target`, an absolute code address. -/
  | br (target : Int)
  | brt (target : Int)
  | brf (target : Int)
  /-- `ICONST literal`. -/
  | iconst (literal : Int)
  /-- `LOAD offset`, signed and relative to `fp`. -/
  | load (offset : Int)
  /-- `GLOAD addr`, an absolute address of the global store. -/
  | gload (addr : Int)
  | store (offset : Int)
  | gstore (addr : Int)
  | puts
  | pop
  /-- `CALL target, n`: an absolute code address and an argument count. -/
  | call (target n : Int)
  | ret
  | halt
  deriving DecidableEq, Repr

end Sys2Proof
end

