-- ==== Sys2Proof/Decode.lean ====
section
/-! DEFINITION. The opcode numbering, the decoder and the encoder of spec/30_encoding.md, and the host's view of
the decoder (`decodeTableWord`). -/

namespace Sys2Proof

/-- The numbering of this hardware: each opcode's zero-based position in the enumeration (R63, D2). -/
def standardOpcodes : OpcodeMap where
  invalid := 0
  iadd := 1
  isub := 2
  imul := 3
  ilt := 4
  ieq := 5
  br := 6
  brt := 7
  brf := 8
  iconst := 9
  load := 10
  gload := 11
  store := 12
  gstore := 13
  puts := 14
  pop := 15
  call := 16
  ret := 17
  halt := 18

/-- `OPCODE_NUMBER` applied to an opcode (R11). -/
def OpcodeMap.number (m : OpcodeMap) : Opcode → Int
  | .invalid => m.invalid
  | .iadd => m.iadd
  | .isub => m.isub
  | .imul => m.imul
  | .ilt => m.ilt
  | .ieq => m.ieq
  | .br => m.br
  | .brt => m.brt
  | .brf => m.brf
  | .iconst => m.iconst
  | .load => m.load
  | .gload => m.gload
  | .store => m.store
  | .gstore => m.gstore
  | .puts => m.puts
  | .pop => m.pop
  | .call => m.call
  | .ret => m.ret
  | .halt => m.halt

/-- The catalog in the order of R63. -/
def allOpcodes : List Opcode :=
  [.invalid, .iadd, .isub, .imul, .ilt, .ieq, .br, .brt, .brf, .iconst,
   .load, .gload, .store, .gstore, .puts, .pop, .call, .ret, .halt]

/-- The map is injective on the 19 opcodes: the legal values of `OPCODE_NUMBER` (R11). -/
abbrev OpcodeMap.wf (m : OpcodeMap) : Prop := (allOpcodes.map m.number).Nodup

/-- The catalog entry of an opcode cell's whole value, if it has one (R60, R72). -/
def OpcodeMap.find (m : OpcodeMap) (v : Int) : Option Opcode :=
  allOpcodes.find? fun o => m.number o == v

/-- The arity of an opcode: how many operand cells it owns (R62, R63). -/
def Opcode.arity : Opcode → Nat
  | .invalid => 0
  | .iadd => 0
  | .isub => 0
  | .imul => 0
  | .ilt => 0
  | .ieq => 0
  | .br => 1
  | .brt => 1
  | .brf => 1
  | .iconst => 1
  | .load => 1
  | .gload => 1
  | .store => 1
  | .gstore => 1
  | .puts => 0
  | .pop => 0
  | .call => 2
  | .ret => 0
  | .halt => 0

/-- The opcode of an instruction. -/
def Instr.opcode : Instr → Opcode
  | .invalid => .invalid
  | .iadd => .iadd
  | .isub => .isub
  | .imul => .imul
  | .ilt => .ilt
  | .ieq => .ieq
  | .br _ => .br
  | .brt _ => .brt
  | .brf _ => .brf
  | .iconst _ => .iconst
  | .load _ => .load
  | .gload _ => .gload
  | .store _ => .store
  | .gstore _ => .gstore
  | .puts => .puts
  | .pop => .pop
  | .call _ _ => .call
  | .ret => .ret
  | .halt => .halt

/-- The instruction's length in cells, `1 + arity` (R60, R64). -/
def Instr.length (i : Instr) : Nat := 1 + i.opcode.arity

/-- Why a sequence of code cells is no instruction. -/
inductive DecodeError where
  /-- There is no opcode cell: the address is past the end of code (R71). -/
  | noOpcodeCell
  /-- The opcode cell's value has no catalog entry (R65, R72). -/
  | unknownOpcode (op : Int)
  /-- Operand cell `j` (from 1) of the opcode cell `op` is past the end of code (R73). -/
  | truncated (op : Int) (j : Nat)
  deriving DecidableEq, Repr

/-- An F1 instruction: one operand cell after the opcode cell `op` (R62). -/
def decodeF1 (op : Int) (mk : Int → Instr) : List Int → Except DecodeError (Instr × List Int)
  | [] => .error (.truncated op 1)
  | x :: rest => .ok (mk x, rest)

/-- An F2 instruction: two operand cells after the opcode cell `op`, read in order (R62, R73). -/
def decodeF2 (op : Int) (mk : Int → Int → Instr) :
    List Int → Except DecodeError (Instr × List Int)
  | [] => .error (.truncated op 1)
  | [_] => .error (.truncated op 2)
  | x :: y :: rest => .ok (mk x y, rest)

/-- The operand fetch of a decoded opcode from the cells after its opcode cell `op` (R73). -/
def decodeOperands (op : Int) : Opcode → List Int → Except DecodeError (Instr × List Int)
  | .invalid, rest => .ok (.invalid, rest)
  | .iadd, rest => .ok (.iadd, rest)
  | .isub, rest => .ok (.isub, rest)
  | .imul, rest => .ok (.imul, rest)
  | .ilt, rest => .ok (.ilt, rest)
  | .ieq, rest => .ok (.ieq, rest)
  | .br, rest => decodeF1 op .br rest
  | .brt, rest => decodeF1 op .brt rest
  | .brf, rest => decodeF1 op .brf rest
  | .iconst, rest => decodeF1 op .iconst rest
  | .load, rest => decodeF1 op .load rest
  | .gload, rest => decodeF1 op .gload rest
  | .store, rest => decodeF1 op .store rest
  | .gstore, rest => decodeF1 op .gstore rest
  | .puts, rest => .ok (.puts, rest)
  | .pop, rest => .ok (.pop, rest)
  | .call, rest => decodeF2 op .call rest
  | .ret, rest => .ok (.ret, rest)
  | .halt, rest => .ok (.halt, rest)

/-- The decoder (R60, R64, R72, R73): the instruction at the front of the code cells, with the cells after it.
The opcode is the whole value of the first cell, and it alone decides the length. -/
def decode (m : OpcodeMap) : List Int → Except DecodeError (Instr × List Int)
  | [] => .error .noOpcodeCell
  | op :: rest =>
    match m.find op with
    | none => .error (.unknownOpcode op)
    | some o => decodeOperands op o rest

/-- The operand cells of an instruction in code order (R62). -/
def Instr.operands : Instr → List Int
  | .invalid => []
  | .iadd => []
  | .isub => []
  | .imul => []
  | .ilt => []
  | .ieq => []
  | .br target => [target]
  | .brt target => [target]
  | .brf target => [target]
  | .iconst literal => [literal]
  | .load offset => [offset]
  | .gload addr => [addr]
  | .store offset => [offset]
  | .gstore addr => [addr]
  | .puts => []
  | .pop => []
  | .call target n => [target, n]
  | .ret => []
  | .halt => []

/-- The encoder: the code cells of an instruction, the opcode cell first (R60, R62, R76). -/
def encode (m : OpcodeMap) (i : Instr) : List Int := m.number i.opcode :: i.operands

/-- The code cells that an entry of spec/opcode_table.json stands for. The table's `match` is the value of the
whole opcode cell and its `mask` is `whole_cell`; a cell has no bits (R13, R60), so `w` is that value and the
operand cells, which the table gives no bits, are zeros. DESIGN CHOICE (log 11), safe: no step reads it. -/
def tableCells (_nbits w : Nat) : List Int := [(w : Int), 0, 0]

/-- The instruction the decoder reads from a table entry, under the numbering of this hardware (log 11). -/
def decodeTableWord (nbits w : Nat) : Option Instr :=
  match decode standardOpcodes (tableCells nbits w) with
  | .ok (i, _) => some i
  | .error _ => none

end Sys2Proof
end

