-- ==== Sys2Proof/Machine/Flags.lean ====
section
/-! DEFINITION. SVM-CORE has no flags (spec/10_state.md R23). What other machines compute into flags is here a
pushed truth value or a range test: the 1 and 0 of ILT and IEQ, and `InRange` (spec/00_scope.md R12). -/

namespace Sys2Proof.Machine

/-- `InRange(v)` (R12): every integer is a cell value when `CELL_BITS` is unbounded; a finite width has the
two's-complement range. -/
def inRange : CellBits → Int → Bool
  | .unbounded, _ => true
  | .bits w, v => decide (-((2 : Int) ^ (w - 1)) ≤ v ∧ v ≤ (2 : Int) ^ (w - 1) - 1)

/-- The integer a comparison pushes: 1 or 0, "never a boolean type" (R23, R103, R104). -/
def truthWord (b : Bool) : Int := if b then 1 else 0

end Sys2Proof.Machine
end

