-- ==== Sys2Proof/Machine/Status.lean ====
section
/-! DEFINITION. The status register `STATUS` (spec/10_state.md R27 to R29) and what an instruction raises
(spec/60_exceptions.md R160 to R163). Its values are symbols, with no bit layout (D25). NONE is `none`. -/

namespace Sys2Proof.Machine

/-- `STATUS.state` (R27). Every value but `running` is terminal. -/
inductive RunState where
  | running | halted | invalid | fault | malformed
  deriving DecidableEq, Repr

/-- `STATUS.halt_cause` other than NONE (R28). -/
inductive HaltCause where
  /-- HALT was executed (R150). -/
  | haltInstr
  /-- A fetch found `ip ≥ L` (R71). -/
  | endOfCode
  deriving DecidableEq, Repr

/-- `STATUS.error` other than NONE: the five fatal conditions (R29, R160). -/
inductive ErrorKind where
  | unknownOpcode | outOfBoundsAccess | uninitializedRead | overflow | malformedProgram
  deriving DecidableEq, Repr

/-- `STATUS.access` other than NONE: the operation that failed (R29, R161). -/
inductive Access where
  | codeFetch | stackPush | stackPop | frameRead | frameWrite
  | globalRead | globalWrite | fpRestore | argDiscard | arith
  deriving DecidableEq, Repr

/-- The status register (R27 to R29). Only the engine writes it, on entering a terminal state. -/
structure Status where
  state : RunState
  haltCause : Option HaltCause
  error : Option ErrorKind
  opcodeValue : Option Int
  atIp : Option Int
  access : Option Access
  address : Option Int
  deriving DecidableEq, Repr

/-- `STATUS` while a run is RUNNING: every other field is NONE (R28, R29, R190). -/
def Status.ofRunning : Status where
  state := .running
  haltCause := none
  error := none
  opcodeValue := none
  atIp := none
  access := none
  address := none

/-- What `raise K(info)` carries (spec/00_scope.md R14): the fatal conditions of a step that end in FAULT. -/
inductive Fatal where
  /-- `OutOfBoundsAccess(k, a)` (R161). -/
  | outOfBounds (k : Access) (a : Int)
  /-- `UninitializedRead(k, a)` (R162). -/
  | uninitialized (k : Access) (a : Int)
  /-- `Overflow(ARITH)` (R163). -/
  | overflow
  deriving DecidableEq, Repr

/-- `STATUS.error` of a raised condition (R161 to R163). -/
def Fatal.error : Fatal → ErrorKind
  | .outOfBounds _ _ => .outOfBoundsAccess
  | .uninitialized _ _ => .uninitializedRead
  | .overflow => .overflow

/-- `STATUS.access` of a raised condition (R161 to R163). -/
def Fatal.access : Fatal → Access
  | .outOfBounds k _ => k
  | .uninitialized k _ => k
  | .overflow => .arith

/-- `STATUS.address` of a raised condition: NONE for Overflow (R161 to R163). -/
def Fatal.address : Fatal → Option Int
  | .outOfBounds _ a => some a
  | .uninitialized _ a => some a
  | .overflow => none

end Sys2Proof.Machine
end

