-- ==== Sys2Proof/Machine/Launch.lean ====
section
/-! DEFINITION. The launch check and the `STATUS` a launch starts with (spec/70_reset_and_hazards.md R190, R193),
and the configuration of `State.reset`. -/

namespace Sys2Proof.Machine

/-- The launch check R193 passes: `START_IP` is a code address (so the program is not empty), `STACK_CAPACITY` is
positive, `GLOBALS_SIZE` is not negative, and every code cell is a cell value. -/
def launchOk (c : Config) : Bool :=
  decide (0 ≤ c.startIp ∧ c.startIp ≤ c.len - 1) && decide (0 < c.stackCapacity)
    && decide (0 ≤ c.globalsSize) && c.code.all (inRange c.cellBits)

/-- `STATUS` after a launch (R190, R193): RUNNING, or MALFORMED with `MalformedProgram` and no step to run. -/
def launchStatus (c : Config) : Status :=
  if launchOk c then Status.ofRunning
  else { Status.ofRunning with state := .malformed, error := some .malformedProgram }

/-- This hardware before the host has supplied a program: the values of R11, and for the two OPEN sizes the ones
spec/95_test_vectors.md uses. DESIGN CHOICE (log 3), unsafe: D10 and D11 leave `STACK_CAPACITY` and
`GLOBALS_SIZE` to the launch. -/
def unloadedConfig : Config where
  code := []
  startIp := 0
  stackCapacity := 1000
  globalsSize := 16
  cellBits := .unbounded
  fpReset := 0
  opcodes := standardOpcodes

end Sys2Proof.Machine
end

