-- ==== Sys2Proof/Machine/State.lean ====
section
/-! DEFINITION. The machine state (spec/10_state.md R34), its value after a launch (spec/70_reset_and_hazards.md
R190), and the reasons a step can stop. -/

namespace Sys2Proof.Machine

/-- One data memory: the addresses that hold an integer, with it. An address that is not listed holds `UNINIT`,
which is what every slot and cell holds at reset (R25, R26, R190). The canonical form is `Memory.wf` of Ops.lean:
addresses strictly rising. No write stores `UNINIT`, so a write never removes an entry (log 6). -/
abbrev Memory := List (Nat × Int)

/-- The machine state: the tuple `(ip, sp, fp, S, G, STATUS, OUT)` and the configuration it runs under (R34).
`cfg` is no architectural state; it stands here because a step is given a state alone (log 1). -/
structure State where
  /-- The launch configuration, with the code memory `C` in it (R24, R32). -/
  cfg : Config
  /-- Instruction pointer (R20). -/
  ip : Int
  /-- Stack pointer: index of the top element, -1 when empty (R21). -/
  sp : Int
  /-- Frame pointer (R22). -/
  fp : Int
  /-- Stack memory `S` (R25). -/
  stack : Memory
  /-- Global store `G` (R26). -/
  globals : Memory
  /-- `STATUS` (R27 to R29). -/
  status : Status
  /-- Output trace `OUT`, oldest first (R30). -/
  out : List Int
  deriving DecidableEq, Repr

/-- The reasons a step is no step. The machine's own fatal conditions are not here: they are next states whose
`STATUS` records them (R170, R171; log 8). -/
inductive Fault where
  /-- Raised by `step` alone, in a state whose `STATUS.state` is not RUNNING: "A terminal state has no step" (R70,
  R174). Safe: the machine has no next state there either (log 7). -/
  | runEnded
  deriving DecidableEq, Repr

/-- The reasons an instruction has no meaning. -/
inductive Refusal where
  /-- An instruction the model gives no meaning. No arm of `exec` raises it: every instruction has its meaning.
  Safe: the model stops where the hardware goes on. -/
  | notModelled (mnemonic : String)
  deriving DecidableEq, Repr

/-- The reset a launch performs (R190), with the launch check's outcome in `STATUS` (R193). -/
def State.launch (c : Config) : State where
  cfg := c
  ip := c.startIp
  sp := -1
  fp := c.fpReset
  stack := []
  globals := []
  status := launchStatus c
  out := []

/-- The machine after reset with no program supplied: the launch of `unloadedConfig`. R193 finds the empty program
malformed, so no step runs until a launch supplies a program (DEDUCED, log 2). -/
def State.reset : State := State.launch unloadedConfig

end Sys2Proof.Machine
end

