-- ==== Sys2Proof/Machine/Ops.lean ====
section
/-! DEFINITION. The shared operations: the data memories (spec/20_memory.md R42 to R45), the stack controller's
Push and Pop (R48, R49), the output port, the advance of `ip`, and the ways a run ends
(spec/60_exceptions.md R164, R170; spec/30_encoding.md R71, R72). -/

namespace Sys2Proof.Machine

/-! ### One memory -/

/-- The integer an address holds, or `none` for `UNINIT` (R25, R26). -/
def Memory.read : Memory → Nat → Option Int
  | [], _ => none
  | (a, v) :: m, k => if a = k then some v else Memory.read m k

/-- Write one cell, keeping the addresses in rising order. -/
def Memory.write : Memory → Nat → Int → Memory
  | [], k, v => [(k, v)]
  | (a, w) :: m, k, v =>
    if k < a then (k, v) :: (a, w) :: m
    else if k = a then (k, v) :: m
    else (a, w) :: Memory.write m k v

/-- The canonical form: addresses strictly rising. Memories that hold the same are then the same list. -/
abbrev Memory.wf (m : Memory) : Prop := m.Pairwise fun c d => c.1 < d.1

/-- What the cell at an address holds, for any integer address: `none` for `UNINIT`, and below 0, where no cell
is. -/
def Memory.cell (m : Memory) (a : Int) : Option Int := if a < 0 then none else m.read a.toNat

/-- `S[a]`, `none` for `UNINIT` (R25). -/
def State.slot (s : State) (a : Int) : Option Int := s.stack.cell a

/-- `G[a]`, `none` for `UNINIT` (R26). -/
def State.global (s : State) (a : Int) : Option Int := s.globals.cell a

/-- `MemRead(STACK, a, 1)` on behalf of access kind `k` (R42). -/
def readStack (k : Access) (a : Int) (s : State) : Except Fatal Int :=
  if a < 0 ∨ a > s.cfg.stackCapacity - 1 then .error (.outOfBounds k a)
  else
    match s.slot a with
    | none => .error (.uninitialized k a)
    | some v => .ok v

/-- `MemWrite(STACK, a, 1, v)` on behalf of access kind `k` (R43). -/
def writeStack (k : Access) (a : Int) (v : Int) (s : State) : Except Fatal State :=
  if a < 0 ∨ a > s.cfg.stackCapacity - 1 then .error (.outOfBounds k a)
  else .ok { s with stack := s.stack.write a.toNat v }

/-- `MemRead(GLOBAL, a, 1)` (R44). -/
def readGlobal (a : Int) (s : State) : Except Fatal Int :=
  if a < 0 ∨ a > s.cfg.globalsSize - 1 then .error (.outOfBounds .globalRead a)
  else
    match s.global a with
    | none => .error (.uninitialized .globalRead a)
    | some v => .ok v

/-- `MemWrite(GLOBAL, a, 1, v)` (R45). -/
def writeGlobal (a : Int) (v : Int) (s : State) : Except Fatal State :=
  if a < 0 ∨ a > s.cfg.globalsSize - 1 then .error (.outOfBounds .globalWrite a)
  else .ok { s with globals := s.globals.write a.toNat v }

/-! ### The stack controller -/

/-- `Push(v)` (R48). -/
def push (v : Int) (s : State) : Except Fatal State :=
  if s.sp = s.cfg.stackCapacity - 1 then .error (.outOfBounds .stackPush s.cfg.stackCapacity)
  else writeStack .stackPush (s.sp + 1) v { s with sp := s.sp + 1 }

/-- `Pop()` (R49): the value and the state after. The slot is not erased. -/
def pop (s : State) : Except Fatal (Int × State) :=
  if s.sp = -1 then .error (.outOfBounds .stackPop (-1))
  else
    match readStack .stackPop s.sp s with
    | .error c => .error c
    | .ok v => .ok (v, { s with sp := s.sp - 1 })

/-! ### The output port -/

/-- `Emit(v)`: append to the output trace (R14, R30). -/
def emit (v : Int) (s : State) : State := { s with out := s.out ++ [v] }

/-! ### The end of a run -/

/-- Taking a fatal condition (R164, R170, R171), from the state at the START of the step. STATUS records the
condition, the opcode cell's value (`none` when the fetch of that cell failed) and its address; every other part
of the state is as it was, and control goes nowhere. There is no return from it (R174). -/
def takeFatal (opcodeValue : Option Int) (c : Fatal) (s : State) : State :=
  { s with status :=
      { s.status with
        state := .fault
        error := some c.error
        opcodeValue := opcodeValue
        atIp := some s.ip
        access := some c.access
        address := c.address } }

/-- The end of a run at an opcode cell with no instruction in it (R72, R151). -/
def takeUnknownOpcode (op : Int) (s : State) : State :=
  { s with status :=
      { s.status with
        state := .invalid
        error := some .unknownOpcode
        opcodeValue := some op
        atIp := some s.ip } }

/-- The end of a run by a halt: HALT at address `a` (R150), or a fetch at `a ≥ L` (R71). -/
def haltRun (cause : HaltCause) (a : Int) (s : State) : State :=
  { s with status := { s.status with state := .halted, haltCause := some cause, atIp := some a } }

/-! ### The frame of every execute rule -/

/-- `ip <- ip_next`, past the opcode cell and the operand cells (R73, R74). -/
def advance (i : Instr) (s : State) : State := { s with ip := s.ip + i.length }

/-- Run an execute rule on the advanced state. `s` is the state at the start of the step, so `s.ip` is the address
of the opcode cell. A raise discards everything the rule wrote and takes the condition from `s` (R170). -/
def perform (i : Instr) (rule : State → Except Fatal State) (s : State) :
    Host.Outcome State Fault Refusal :=
  match rule (advance i s) with
  | .ok t => .next t
  | .error c => .next (takeFatal (some (s.cfg.opcodes.number i.opcode)) c s)

end Sys2Proof.Machine
end

