-- ==== Sys2Proof/Machine/Alu.lean ====
section
/-! DEFINITION. The integer ALU: IADD, ISUB, IMUL, ILT, IEQ (spec/41_alu.md). -/

namespace Sys2Proof.Machine

/-- `b <- Pop(); a <- Pop(); r <- f a b`, a raise of Overflow when `r` is no cell value, `Push(r)` (R99 to R102). -/
def arithmetic (f : Int → Int → Int) (s : State) : Except Fatal State := do
  let (b, s₁) ← pop s
  let (a, s₂) ← pop s₁
  if inRange s.cfg.cellBits (f a b) then push (f a b) s₂ else .error .overflow

/-- `b <- Pop(); a <- Pop()`, then push 1 or 0 (R103, R104). -/
def comparison (f : Int → Int → Bool) (s : State) : Except Fatal State := do
  let (b, s₁) ← pop s
  let (a, s₂) ← pop s₁
  push (truthWord (f a b)) s₂

/-- IADD (R100). -/
def execIadd (s : State) : Host.Outcome State Fault Refusal :=
  perform .iadd (arithmetic fun a b => a + b) s

/-- ISUB (R101): the earlier-pushed operand minus the later-pushed one. -/
def execIsub (s : State) : Host.Outcome State Fault Refusal :=
  perform .isub (arithmetic fun a b => a - b) s

/-- IMUL (R102). -/
def execImul (s : State) : Host.Outcome State Fault Refusal :=
  perform .imul (arithmetic fun a b => a * b) s

/-- ILT (R103): strict and signed. -/
def execIlt (s : State) : Host.Outcome State Fault Refusal :=
  perform .ilt (comparison fun a b => decide (a < b)) s

/-- IEQ (R104). -/
def execIeq (s : State) : Host.Outcome State Fault Refusal :=
  perform .ieq (comparison fun a b => decide (a = b)) s

end Sys2Proof.Machine
end

