-- ==== Sys2Proof/Machine/Branch.lean ====
section
/-! DEFINITION. The branches: BR, BRT, BRF (spec/42_branch.md). A target is not checked here; the next opcode
fetch checks it (R109). -/

namespace Sys2Proof.Machine

/-- `ip <- target`. -/
def jump (target : Int) (s : State) : State := { s with ip := target }

/-- `v <- Pop()`, then `ip <- target` only for the value `taken` (R111, R112). -/
def branchOn (taken : Int) (target : Int) (s : State) : Except Fatal State := do
  let (v, s₁) ← pop s
  if v = taken then .ok (jump target s₁) else .ok s₁

/-- BR (R110). -/
def execBr (target : Int) (s : State) : Host.Outcome State Fault Refusal :=
  perform (.br target) (fun s => .ok (jump target s)) s

/-- BRT (R111): only the value 1 branches. -/
def execBrt (target : Int) (s : State) : Host.Outcome State Fault Refusal :=
  perform (.brt target) (branchOn 1 target) s

/-- BRF (R112): only the value 0 branches. -/
def execBrf (target : Int) (s : State) : Host.Outcome State Fault Refusal :=
  perform (.brf target) (branchOn 0 target) s

end Sys2Proof.Machine
end

