-- ==== Sys2Proof/Machine/CallReturn.lean ====
section
/-! DEFINITION. The call-frame encoder: CALL and RET (spec/44_call_return.md). -/

namespace Sys2Proof.Machine

/-- CALL's execute rule (R140), on entry `ip = ip_next`: the three header words, then `fp` and `ip`. The header
words are pushed as they are, with no range check for a finite `CELL_BITS` (DEDUCED, log 12). -/
def callFrame (target n : Int) (s : State) : Except Fatal State := do
  let s₁ ← push n s
  let s₂ ← push s.fp s₁
  let s₃ ← push s.ip s₂
  .ok { s₃ with fp := s₃.sp, ip := target }

/-- CALL (R140). -/
def execCall (target n : Int) (s : State) : Host.Outcome State Fault Refusal :=
  perform (.call target n) (callFrame target n) s

/-- `sp <- fp`, checked (R141, D14). -/
def restoreSp (s : State) : Except Fatal State :=
  if s.fp < 0 ∨ s.fp > s.cfg.stackCapacity - 1 then .error (.outOfBounds .fpRestore s.fp)
  else .ok { s with sp := s.fp }

/-- `sp <- sp - n`, checked (R141, D13). -/
def discardArgs (n : Int) (s : State) : Except Fatal State :=
  if n < 0 ∨ n > s.sp + 1 then .error (.outOfBounds .argDiscard (s.sp - n))
  else .ok { s with sp := s.sp - n }

/-- RET's execute rule (R141). -/
def returnFrame (s : State) : Except Fatal State := do
  let (rv, s₁) ← pop s
  let s₂ ← restoreSp s₁
  let (r, s₃) ← pop s₂
  let (f, s₄) ← pop s₃
  let (n, s₅) ← pop s₄
  let s₆ ← discardArgs n s₅
  let s₇ ← push rv s₆
  .ok { s₇ with ip := r, fp := f }

/-- RET (R141). -/
def execRet (s : State) : Host.Outcome State Fault Refusal :=
  perform .ret returnFrame s

end Sys2Proof.Machine
end

