-- ==== Sys2Proof/Machine/Operands.lean ====
section
/-! DEFINITION. The addressing modes (spec/43_data_movement.md R119). An immediate operand is its cell as it is
(spec/30_encoding.md R61) and needs no operation. -/

namespace Sys2Proof.Machine

/-- The effective address of LOAD and STORE: `fp + offset`, never truncated (R12, R119). -/
def frameAddress (offset : Int) (s : State) : Int := s.fp + offset

/-- The effective address of GLOAD and GSTORE: the operand itself (R119). -/
def globalAddress (addr : Int) : Int := addr

/-- The frame-relative read of LOAD: the address must lie in the live stack `[0, sp]` (R46, R121). -/
def readFrame (offset : Int) (s : State) : Except Fatal Int :=
  if frameAddress offset s < 0 ∨ frameAddress offset s > s.sp then
    .error (.outOfBounds .frameRead (frameAddress offset s))
  else readStack .frameRead (frameAddress offset s) s

/-- The frame-relative write of STORE, with `sp` as it is after the pop (R46, R123). -/
def writeFrame (offset v : Int) (s : State) : Except Fatal State :=
  if frameAddress offset s < 0 ∨ frameAddress offset s > s.sp then
    .error (.outOfBounds .frameWrite (frameAddress offset s))
  else writeStack .frameWrite (frameAddress offset s) v s

end Sys2Proof.Machine
end

