-- ==== Sys2Proof/Machine/DataMovement.lean ====
section
/-! DEFINITION. Constants, loads and stores, output and discard (spec/43_data_movement.md). -/

namespace Sys2Proof.Machine

/-- ICONST (R120). -/
def execIconst (literal : Int) (s : State) : Host.Outcome State Fault Refusal :=
  perform (.iconst literal) (push literal) s

/-- LOAD's execute rule (R121): the address check, the read, then the push. -/
def loadFrame (offset : Int) (s : State) : Except Fatal State := do
  let v ← readFrame offset s
  push v s

/-- LOAD (R121). -/
def execLoad (offset : Int) (s : State) : Host.Outcome State Fault Refusal :=
  perform (.load offset) (loadFrame offset) s

/-- GLOAD's execute rule (R122). -/
def loadGlobal (addr : Int) (s : State) : Except Fatal State := do
  let v ← readGlobal (globalAddress addr) s
  push v s

/-- GLOAD (R122). -/
def execGload (addr : Int) (s : State) : Host.Outcome State Fault Refusal :=
  perform (.gload addr) (loadGlobal addr) s

/-- STORE's execute rule (R123): the pop comes before the address check. -/
def storeFrame (offset : Int) (s : State) : Except Fatal State := do
  let (v, s₁) ← pop s
  writeFrame offset v s₁

/-- STORE (R123). -/
def execStore (offset : Int) (s : State) : Host.Outcome State Fault Refusal :=
  perform (.store offset) (storeFrame offset) s

/-- GSTORE's execute rule (R124). -/
def storeGlobal (addr : Int) (s : State) : Except Fatal State := do
  let (v, s₁) ← pop s
  writeGlobal (globalAddress addr) v s₁

/-- GSTORE (R124). -/
def execGstore (addr : Int) (s : State) : Host.Outcome State Fault Refusal :=
  perform (.gstore addr) (storeGlobal addr) s

/-- PUTS's execute rule (R125). -/
def output (s : State) : Except Fatal State := do
  let (v, s₁) ← pop s
  .ok (emit v s₁)

/-- PUTS (R125). -/
def execPuts (s : State) : Host.Outcome State Fault Refusal :=
  perform .puts output s

/-- POP's execute rule (R126): the slot must have been written, though its value is discarded. -/
def discard (s : State) : Except Fatal State := do
  let (_, s₁) ← pop s
  .ok s₁

/-- POP (R126). -/
def execPop (s : State) : Host.Outcome State Fault Refusal :=
  perform .pop discard s

end Sys2Proof.Machine
end

