-- ==== Sys2Proof/Machine/Termination.lean ====
section
/-! DEFINITION. The opcodes that end a run: HALT and INVALID (spec/45_termination.md). -/

namespace Sys2Proof.Machine

/-- HALT (R150): `ip` is advanced, and `STATUS.at_ip` is the address of the HALT. -/
def execHalt (s : State) : Host.Outcome State Fault Refusal :=
  perform .halt (fun t => .ok (haltRun .haltInstr s.ip t)) s

/-- INVALID (R72, R151): the run ends at the decode, so `ip` is not advanced. -/
def execInvalid (s : State) : Host.Outcome State Fault Refusal :=
  .next (takeUnknownOpcode (s.cfg.opcodes.number .invalid) s)

end Sys2Proof.Machine
end

