-- ==== Sys2Proof/Machine/Dispatch.lean ====
section
/-! DEFINITION. The execute stage: one arm per instruction (spec/30_encoding.md R74). -/

namespace Sys2Proof.Machine

/-- `Execute_op(o[1..k])` with the advance of `ip` before it (R73, R74). `s` is the state at the start of the step,
so `s.ip` is the address of the opcode cell (log 9). -/
def exec (i : Instr) (s : State) : Host.Outcome State Fault Refusal :=
  match i with
  | .invalid => Sys2Proof.Machine.execInvalid s
  | .iadd => Sys2Proof.Machine.execIadd s
  | .isub => Sys2Proof.Machine.execIsub s
  | .imul => Sys2Proof.Machine.execImul s
  | .ilt => Sys2Proof.Machine.execIlt s
  | .ieq => Sys2Proof.Machine.execIeq s
  | .br target => Sys2Proof.Machine.execBr target s
  | .brt target => Sys2Proof.Machine.execBrt target s
  | .brf target => Sys2Proof.Machine.execBrf target s
  | .iconst literal => Sys2Proof.Machine.execIconst literal s
  | .load offset => Sys2Proof.Machine.execLoad offset s
  | .gload addr => Sys2Proof.Machine.execGload addr s
  | .store offset => Sys2Proof.Machine.execStore offset s
  | .gstore addr => Sys2Proof.Machine.execGstore addr s
  | .puts => Sys2Proof.Machine.execPuts s
  | .pop => Sys2Proof.Machine.execPop s
  | .call target n => Sys2Proof.Machine.execCall target n s
  | .ret => Sys2Proof.Machine.execRet s
  | .halt => Sys2Proof.Machine.execHalt s

end Sys2Proof.Machine
end

