-- ==== Sys2Proof/Machine/Fetch.lean ====
section
/-! DEFINITION. The opcode fetch, the decode and the operand fetch of a step (spec/30_encoding.md R71 to R73). -/

namespace Sys2Proof.Machine

/-- The outcome of the stages before the execute. -/
inductive Fetched where
  /-- An instruction to execute. -/
  | instr (i : Instr)
  /-- The fetch address is at or past the end of code (R71). -/
  | endOfCode
  /-- The opcode cell's value has no catalog entry (R72). -/
  | unknown (op : Int)
  /-- A fatal condition of the fetch, with the opcode cell's value where it was read (R71, R73). -/
  | fatal (opcodeValue : Option Int) (c : Fatal)
  deriving DecidableEq, Repr

/-- The code cells from address `a` on; none when `a ≥ L`. -/
def codeFrom (a : Int) (s : State) : List Int := s.cfg.code.drop a.toNat

/-- Fetch and decode at `ip` (R71 to R73). A negative address faults; an address at or past the end has no cells
from it on, which the decoder reports as `noOpcodeCell`. -/
def fetch (s : State) : Fetched :=
  if s.ip < 0 then .fatal none (.outOfBounds .codeFetch s.ip)
  else
    match decode s.cfg.opcodes (codeFrom s.ip s) with
    | .ok (i, _) => .instr i
    | .error .noOpcodeCell => .endOfCode
    | .error (.unknownOpcode op) => .unknown op
    | .error (.truncated op j) => .fatal (some op) (.outOfBounds .codeFetch (s.ip + j))

/-- `code` with `cells` at address `a`, the cells before `a` filled up with 0 where there are too few. -/
def placeCells (code : List Int) (a : Nat) (cells : List Int) : List Int :=
  (code.take a).rightpad a 0 ++ cells ++ code.drop (a + cells.length)

/-- The machine with the cells of one instruction, numbered as spec/opcode_table.json numbers them, at the address it
fetches next, and RUNNING. It stands for a launch that supplies them in its `CODE` (log 2, log 11): a program comes
from outside, and the launch of the empty program is MALFORMED. -/
def launchCells (cells : List Int) (s : State) : State :=
  { s with
    cfg := { s.cfg with
      code := placeCells s.cfg.code s.ip.toNat cells
      opcodes := standardOpcodes }
    ip := s.ip.toNat
    status := Status.ofRunning }

end Sys2Proof.Machine
end

