-- ==== Sys2Proof/Machine/Step.lean ====
section
/-! DEFINITION. One step of the machine (spec/30_encoding.md R70 to R74). -/

namespace Sys2Proof.Machine

/-- `Step()` (R70, R74). It is defined only while RUNNING; a terminal state has no step (R70, R174; log 7). -/
def step (s : State) : Host.Outcome State Fault Refusal :=
  match s.status.state with
  | .running =>
    match fetch s with
    | .instr i => exec i s
    | .endOfCode => .next (haltRun .endOfCode s.ip s)
    | .unknown op => .next (takeUnknownOpcode op s)
    | .fatal opcodeValue c => .next (takeFatal opcodeValue c s)
  | .halted => .fault .runEnded
  | .invalid => .fault .runEnded
  | .fault => .fault .runEnded
  | .malformed => .fault .runEnded

/-- The instruction that spec/opcode_table.json numbers `w`, with operand cells of 0, where the next step fetches
(log 2, log 11). -/
def State.withFetchWord (s : State) (nbits w : Nat) : State := launchCells (tableCells nbits w) s

end Sys2Proof.Machine
end

