-- ==== Sys2Proof/Machine/Output.lean ====
section
/-! DEFINITION. The host's rendering of the output trace (spec/60_exceptions.md R180). It is outside the core: no
step uses it (log 15). A text is a list of characters. -/

namespace Sys2Proof.Machine

/-- The decimal digits of a natural number, most significant first, given at least as much fuel as it has digits. -/
def decimalDigits : Nat → Nat → List Char
  | 0, _ => []
  | fuel + 1, n =>
    if n < 10 then [Nat.digitChar n]
    else decimalDigits fuel (n / 10) ++ [Nat.digitChar (n % 10)]

/-- The decimal text of an integer: a leading `-` for a negative one, no `+`, no leading zeros (R180). -/
def decimalText (v : Int) : List Char :=
  if v < 0 then '-' :: decimalDigits (v.natAbs + 1) v.natAbs
  else decimalDigits (v.natAbs + 1) v.natAbs

/-- The line `OUTPUT: <value>` of one element of `OUT` (R180). -/
def outputLine (v : Int) : List Char :=
  ['O', 'U', 'T', 'P', 'U', 'T', ':', ' '] ++ decimalText v ++ ['\n']

/-- The text the host prints for an output trace, the lines in `OUT` order (R180). -/
def renderOutput (out : List Int) : List Char := out.flatMap outputLine

end Sys2Proof.Machine
end

