-- ==== Sys2Proof/Machine/Run.lean ====
section
/-! DEFINITION. `run()` under fuel (spec/30_encoding.md R75; spec/70_reset_and_hazards.md R195, R199). The machine
itself has no step bound; fuel belongs to this executor. -/

namespace Sys2Proof.Machine

/-- How a run under fuel ends. -/
inductive RunResult where
  /-- The run ended: the first state reached that is not RUNNING (R199). Its outcome is `STATUS` and `OUT`. -/
  | ended (s : State)
  /-- The fuel ran out in a RUNNING state. This is no status of the machine, "and it must not be reported as
  HALTED" (R75, D23). -/
  | outOfFuel (s : State)
  /-- A RUNNING state had no next state. `Laws` shows that this never happens (R198). -/
  | stuck (s : State)
  deriving DecidableEq, Repr

/-- Apply `step` until the state is terminal, at most `fuel` times (R75). -/
def runFuel : Nat → State → RunResult
  | 0, s => if s.status.state = .running then .outOfFuel s else .ended s
  | fuel + 1, s =>
    if s.status.state = .running then
      match step s with
      | .next t => runFuel fuel t
      | .fault _ => .stuck s
      | .refused _ => .stuck s
    else .ended s

end Sys2Proof.Machine
end

