-- ==== Sys2Proof/WellFormed.lean ====
section
/-! DEFINITION. Well-formed instructions: each operand is a cell value (spec/30_encoding.md R61, R66). -/

namespace Sys2Proof

/-- Every operand of the instruction is `InRange` for the width `cb` of a cell, as every code cell is (R12, R24).
Nothing else is asked: "Any integer is a legal operand of any opcode" (R66). -/
def Instr.wellFormed (cb : CellBits) : Instr → Bool
  | .invalid => true
  | .iadd => true
  | .isub => true
  | .imul => true
  | .ilt => true
  | .ieq => true
  | .br target => Machine.inRange cb target
  | .brt target => Machine.inRange cb target
  | .brf target => Machine.inRange cb target
  | .iconst literal => Machine.inRange cb literal
  | .load offset => Machine.inRange cb offset
  | .gload addr => Machine.inRange cb addr
  | .store offset => Machine.inRange cb offset
  | .gstore addr => Machine.inRange cb addr
  | .puts => true
  | .pop => true
  | .call target n => Machine.inRange cb target && Machine.inRange cb n
  | .ret => true
  | .halt => true

end Sys2Proof
end

