-- ==== Sys2Proof/Safety.lean ====
section
/-! DEFINITION. The terms the statements use: the invariants of a run, how an instruction completes and how it
faults, and what it leaves unchanged. -/

namespace Sys2Proof.Machine

/-! ### Invariants -/

/-- The invariant of `sp`: `-1 ≤ sp ≤ STACK_CAPACITY - 1` (R21). -/
def SpInRange (s : State) : Prop := -1 ≤ s.sp ∧ s.sp ≤ s.cfg.stackCapacity - 1

/-- Both data memories are in canonical form, and hold nothing outside their address space (R25, R26, R40). -/
def MemoriesCanonical (s : State) : Prop :=
  s.stack.wf ∧ s.globals.wf ∧
  (∀ c ∈ s.stack, (c.1 : Int) < s.cfg.stackCapacity) ∧
  (∀ c ∈ s.globals, (c.1 : Int) < s.cfg.globalsSize)

/-- "every slot up to the highest `sp` reached has been written" (D8): the written slots have no gap below them, and
the top of the live stack is written. -/
def WrittenPrefix (s : State) : Prop :=
  (∀ a b, 0 ≤ a → a ≤ b → s.slot b ≠ none → s.slot a ≠ none) ∧
  (0 ≤ s.sp → s.slot s.sp ≠ none)

/-- The fields of `STATUS` that each value of `STATUS.state` sets, every other one NONE (R27 to R29). -/
def Status.Coherent (st : Status) : Prop :=
  match st.state with
  | .running => st = Status.ofRunning
  | .halted =>
    st.haltCause.isSome ∧ st.atIp.isSome ∧
    st.error = none ∧ st.opcodeValue = none ∧ st.access = none ∧ st.address = none
  | .invalid =>
    st.error = some .unknownOpcode ∧ st.opcodeValue.isSome ∧ st.atIp.isSome ∧
    st.haltCause = none ∧ st.access = none ∧ st.address = none
  | .fault =>
    (st.error = some .outOfBoundsAccess ∨ st.error = some .uninitializedRead ∨ st.error = some .overflow) ∧
    st.atIp.isSome ∧ st.access.isSome ∧ st.haltCause = none ∧
    (st.opcodeValue = none → st.access = some .codeFetch) ∧
    (st.error = some .overflow ↔ st.access = some .arith) ∧
    (st.address = none ↔ st.error = some .overflow)
  | .malformed => st = { Status.ofRunning with state := .malformed, error := some .malformedProgram }

/-- Every value a data memory holds is a cell value (R12, R25, R26). -/
def ValuesInRange (s : State) : Prop :=
  (∀ a v, s.slot a = some v → inRange s.cfg.cellBits v = true) ∧
  (∀ a v, s.global a = some v → inRange s.cfg.cellBits v = true)

/-- The legal widths of a cell (R11): unbounded, or at least 2. -/
def legalWidth : CellBits → Bool
  | .unbounded => true
  | .bits w => decide (2 ≤ w)

/-- What keeps the words CALL pushes cell values: `fp`, every stack address and every code address up to `L` are, and
so is every code cell (R24). With an unbounded `CELL_BITS` nothing is asked. -/
def AddressesInRange (s : State) : Prop :=
  inRange s.cfg.cellBits s.fp = true ∧
  (∀ a, -1 ≤ a → a ≤ s.cfg.stackCapacity - 1 → inRange s.cfg.cellBits a = true) ∧
  (∀ a, 0 ≤ a → a ≤ s.cfg.len → inRange s.cfg.cellBits a = true) ∧
  s.cfg.code.all (inRange s.cfg.cellBits) = true

/-- A safe end of a run: HALTED, by either cause (R27, R28). -/
def State.endedWell (s : State) : Prop := s.status.state = .halted

/-! ### How an instruction completes, and how it faults -/

/-- `exec` answers a next state, and `P` holds of it. -/
def Completes (i : Instr) (s : State) (P : State → Prop) : Prop :=
  ∃ t, exec i s = .next t ∧ P t

/-- `t` is `s` after a fatal condition (R161 to R164, R170): STATUS alone changes. `opcodeValue` is the value of the
opcode cell, `none` when the fetch of that cell faulted. -/
def FaultedFrom (s t : State) (opcodeValue : Option Int) (e : ErrorKind) (k : Access)
    (address : Option Int) : Prop :=
  t.cfg = s.cfg ∧ t.ip = s.ip ∧ t.sp = s.sp ∧ t.fp = s.fp ∧ t.stack = s.stack ∧
  t.globals = s.globals ∧ t.out = s.out ∧
  t.status.state = .fault ∧ t.status.haltCause = s.status.haltCause ∧ t.status.error = some e ∧
  t.status.opcodeValue = opcodeValue ∧ t.status.atIp = some s.ip ∧ t.status.access = some k ∧
  t.status.address = address

/-- Executing `i` raises the condition `e` on behalf of access `k`, with the recorded address. -/
def Faults (i : Instr) (s : State) (e : ErrorKind) (k : Access) (address : Option Int) : Prop :=
  Completes i s fun t => FaultedFrom s t (some (s.cfg.opcodes.number i.opcode)) e k address

/-- How an instruction that pops one cell first faults on that pop (R49): an empty stack, then an unwritten top. -/
def FaultsOnPop (i : Instr) (s : State) : Prop :=
  (s.sp = -1 → Faults i s .outOfBoundsAccess .stackPop (some (-1))) ∧
  (0 ≤ s.sp → s.slot s.sp = none → Faults i s .uninitializedRead .stackPop (some s.sp))

/-- How an instruction that pops two cells first faults on those pops (R49): as on one pop, and then the same for the
cell below. -/
def FaultsOnTwoPops (i : Instr) (s : State) : Prop :=
  FaultsOnPop i s ∧
  (s.sp = 0 → s.slot 0 ≠ none → Faults i s .outOfBoundsAccess .stackPop (some (-1))) ∧
  (1 ≤ s.sp → s.slot s.sp ≠ none → s.slot (s.sp - 1) = none →
    Faults i s .uninitializedRead .stackPop (some (s.sp - 1)))

/-- How an instruction of opcode `o` faults when the end of code cuts it short (R73): at its first missing operand
cell. -/
def FaultsWhenTruncated (o : Opcode) (s : State) : Prop :=
  ∀ j : Nat, s.cfg.opcodes.wf → s.status.state = .running → 0 ≤ s.ip →
    s.cfg.code[s.ip.toNat]? = some (s.cfg.opcodes.number o) → 1 ≤ j → j ≤ o.arity → s.cfg.len = s.ip + j →
    ∃ t, step s = .next t ∧
      FaultedFrom s t (some (s.cfg.opcodes.number o)) .outOfBoundsAccess .codeFetch (some (s.ip + j))

/-! ### Frames -/

/-- Every slot of the stack memory holds what it held. -/
def SameStack (s t : State) : Prop := ∀ a, t.slot a = s.slot a

/-- Slot `a` holds `v`, and every other slot holds what it held. -/
def StackWrittenAt (s t : State) (a : Int) (v : Int) : Prop :=
  t.slot a = some v ∧ ∀ b, b ≠ a → t.slot b = s.slot b

/-- Every global cell holds what it held. -/
def SameGlobals (s t : State) : Prop := ∀ a, t.global a = s.global a

/-- Global cell `a` holds `v`, and every other one holds what it held. -/
def GlobalWrittenAt (s t : State) (a : Int) (v : Int) : Prop :=
  t.global a = some v ∧ ∀ b, b ≠ a → t.global b = s.global b

/-- The configuration, code among it, and STATUS are unchanged. -/
def SameEngine (s t : State) : Prop := t.cfg = s.cfg ∧ t.status = s.status

/-- The effect of popping two cells and pushing `v`: `ip` is advanced, slot `sp - 1` holds `v`, `sp` is one less, and
nothing else changes. -/
def ReplacesTopTwo (s t : State) (v : Int) : Prop :=
  t.ip = s.ip + 1 ∧ t.sp = s.sp - 1 ∧ t.fp = s.fp ∧ t.out = s.out ∧
  StackWrittenAt s t (s.sp - 1) v ∧ SameGlobals s t ∧ SameEngine s t

/-- The effect of pushing `v` in an instruction of two cells: `ip` is advanced, slot `sp + 1` holds `v`, `sp` is one
more, and nothing else changes. -/
def PushesOne (s t : State) (v : Int) : Prop :=
  t.ip = s.ip + 2 ∧ t.sp = s.sp + 1 ∧ t.fp = s.fp ∧ t.out = s.out ∧
  StackWrittenAt s t (s.sp + 1) v ∧ SameGlobals s t ∧ SameEngine s t

/-! ### The condition table -/

/-- The conditions R165 lists for each instruction at execute, with their access kinds. -/
def raisesTable : Instr → List (ErrorKind × Access)
  | .invalid => []
  | .iadd => [(.outOfBoundsAccess, .stackPop), (.uninitializedRead, .stackPop), (.overflow, .arith)]
  | .isub => [(.outOfBoundsAccess, .stackPop), (.uninitializedRead, .stackPop), (.overflow, .arith)]
  | .imul => [(.outOfBoundsAccess, .stackPop), (.uninitializedRead, .stackPop), (.overflow, .arith)]
  | .ilt => [(.outOfBoundsAccess, .stackPop), (.uninitializedRead, .stackPop)]
  | .ieq => [(.outOfBoundsAccess, .stackPop), (.uninitializedRead, .stackPop)]
  | .br _ => []
  | .brt _ => [(.outOfBoundsAccess, .stackPop), (.uninitializedRead, .stackPop)]
  | .brf _ => [(.outOfBoundsAccess, .stackPop), (.uninitializedRead, .stackPop)]
  | .iconst _ => [(.outOfBoundsAccess, .stackPush)]
  | .load _ =>
    [(.outOfBoundsAccess, .frameRead), (.outOfBoundsAccess, .stackPush), (.uninitializedRead, .frameRead)]
  | .gload _ =>
    [(.outOfBoundsAccess, .globalRead), (.outOfBoundsAccess, .stackPush), (.uninitializedRead, .globalRead)]
  | .store _ =>
    [(.outOfBoundsAccess, .stackPop), (.outOfBoundsAccess, .frameWrite), (.uninitializedRead, .stackPop)]
  | .gstore _ =>
    [(.outOfBoundsAccess, .stackPop), (.outOfBoundsAccess, .globalWrite), (.uninitializedRead, .stackPop)]
  | .puts => [(.outOfBoundsAccess, .stackPop), (.uninitializedRead, .stackPop)]
  | .pop => [(.outOfBoundsAccess, .stackPop), (.uninitializedRead, .stackPop)]
  | .call _ _ => [(.outOfBoundsAccess, .stackPush)]
  | .ret =>
    [(.outOfBoundsAccess, .stackPop), (.outOfBoundsAccess, .fpRestore), (.outOfBoundsAccess, .argDiscard),
     (.uninitializedRead, .stackPop)]
  | .halt => []

end Sys2Proof.Machine
end

