-- ==== Sys2Proof/Certificates/Slice0/Obligations.lean ====
section
/-! DEFINITION. The statements for the provers, each with the rule of spec/ it formalises. -/

open Sys2Proof Sys2Proof.Machine

/-! ### Encoding and decoding (spec/30_encoding.md) -/

/-- R60, R62: decoding the cells of any instruction, whatever follows them, gives the instruction back with every
operand, under every injective `OPCODE_NUMBER`. -/
def Obligations.DecodeOfEncodeIsTheInstruction : Prop :=
  ∀ (m : OpcodeMap) (i : Instr) (rest : List Int), m.wf → decode m (encode m i ++ rest) = .ok (i, rest)

/-- R60, R61: whatever cells the decoder reads as an instruction are that instruction's encoding, and it hands back
all the cells after them. -/
def Obligations.DecodedCellsAreTheEncoding : Prop :=
  ∀ (m : OpcodeMap) (cells : List Int) (i : Instr) (rest : List Int),
    decode m cells = .ok (i, rest) → cells = encode m i ++ rest

/-- R63: the numbers and arities of the table are the catalog, and no other value has an entry. -/
def Obligations.OpcodeNumbersAreTheTable : Prop :=
  ∀ (v : Int) (o : Opcode) (k : Nat), (standardOpcodes.find v = some o ∧ o.arity = k) ↔
    (v, o, k) ∈
      [(0, Opcode.invalid, 0), (1, .iadd, 0), (2, .isub, 0), (3, .imul, 0), (4, .ilt, 0), (5, .ieq, 0),
       (6, .br, 1), (7, .brt, 1), (8, .brf, 1), (9, .iconst, 1), (10, .load, 1), (11, .gload, 1),
       (12, .store, 1), (13, .gstore, 1), (14, .puts, 0), (15, .pop, 0), (16, .call, 2), (17, .ret, 0),
       (18, .halt, 0)]

/-- A few code words, written out from R63 and the examples of R76 and spec/95_test_vectors.md, decode to the
instructions they stand for. -/
def Obligations.SampleCellsDecode : Prop :=
  decode standardOpcodes [1] = .ok (.iadd, []) ∧
  decode standardOpcodes [9, 1, 9, 2, 18] = .ok (.iconst 1, [9, 2, 18]) ∧
  decode standardOpcodes [10, -3, 9] = .ok (.load (-3), [9]) ∧
  decode standardOpcodes [16, 9, 2, 14] = .ok (.call 9 2, [14]) ∧
  decode standardOpcodes [18] = .ok (.halt, []) ∧
  decode standardOpcodes [19] = .error (.unknownOpcode 19) ∧
  decode standardOpcodes [16, 0] = .error (.truncated 16 2)

/-! ### The step cycle (spec/30_encoding.md) -/

/-- R70, R74: when the cells at `ip` decode to a well-formed instruction, the step is the execution of that
instruction in the same state. The step adds nothing around it: `exec` itself advances `ip`. -/
def Obligations.StepRunsTheDecodedInstruction : Prop :=
  ∀ (s : State) (i : Instr) (rest : List Int), s.status.state = .running → 0 ≤ s.ip →
    decode s.cfg.opcodes (codeFrom s.ip s) = .ok (i, rest) → i.wellFormed s.cfg.cellBits = true →
    step s = exec i s

/-- R71: a fetch at a negative address faults with no opcode value; a fetch at or past `L` ends the run HALTED with
cause END_OF_CODE and changes nothing else; a fetch at an address of CODE reads the opcode cell there, and the step
is the execution of an instruction of that opcode, the report of the cell's value, or a fault that records it. -/
def Obligations.OpcodeFetchByAddress : Prop :=
  ∀ (s : State), s.status.state = .running →
    (s.ip < 0 → ∃ t, step s = .next t ∧
      FaultedFrom s t none .outOfBoundsAccess .codeFetch (some s.ip)) ∧
    (s.cfg.len ≤ s.ip → ∃ t, step s = .next t ∧
      t.cfg = s.cfg ∧ t.ip = s.ip ∧ t.sp = s.sp ∧ t.fp = s.fp ∧ t.out = s.out ∧
      SameStack s t ∧ SameGlobals s t ∧
      t.status = { s.status with state := .halted, haltCause := some .endOfCode, atIp := some s.ip }) ∧
    (∀ op, 0 ≤ s.ip → s.cfg.code[s.ip.toNat]? = some op →
      (∃ i, s.cfg.opcodes.number i.opcode = op ∧ step s = exec i s) ∨
      (∃ t, step s = .next t ∧ t.status.state = .invalid ∧ t.status.opcodeValue = some op) ∨
      (∃ t, step s = .next t ∧ t.status.state = .fault ∧ t.status.opcodeValue = some op))

/-- R72: an opcode cell that holds INVALID's number or no entry of the catalog ends the run INVALID, reported with
its value and its address, and everything else is left as it was, `ip` too. -/
def Obligations.UnknownOpcodeEndsTheRun : Prop :=
  ∀ (s : State) (op : Int), s.status.state = .running → 0 ≤ s.ip → s.cfg.code[s.ip.toNat]? = some op →
    (s.cfg.opcodes.find op = some .invalid ∨ s.cfg.opcodes.find op = none) →
    ∃ t, step s = .next t ∧
      t.cfg = s.cfg ∧ t.ip = s.ip ∧ t.sp = s.sp ∧ t.fp = s.fp ∧ t.out = s.out ∧
      SameStack s t ∧ SameGlobals s t ∧
      t.status = { s.status with
        state := .invalid, error := some .unknownOpcode, opcodeValue := some op, atIp := some s.ip }

/-- R73: with every operand cell inside CODE, the operands are the cells after the opcode cell; the first operand cell
past the end raises `OutOfBoundsAccess(CODE_FETCH, a + j)`. -/
def Obligations.OperandFetchReadsTheCellsOrFaults : Prop :=
  ∀ (s : State) (op : Int) (o : Opcode), s.status.state = .running → 0 ≤ s.ip →
    s.cfg.code[s.ip.toNat]? = some op → s.cfg.opcodes.find op = some o →
    (s.ip + o.arity < s.cfg.len → ∃ i, i.opcode = o ∧ step s = exec i s ∧
      i.operands = (s.cfg.code.drop (s.ip.toNat + 1)).take o.arity) ∧
    (∀ j : Nat, 1 ≤ j → j ≤ o.arity → s.cfg.len = s.ip + j → ∃ t, step s = .next t ∧
      FaultedFrom s t (some op) .outOfBoundsAccess .codeFetch (some (s.ip + j)))

/-! ### The integer ALU (spec/41_alu.md) -/

/-- R100: IADD replaces the top two cells by `a + b` (`b` the top), and faults in the order of its pops and the range
test. -/
def Obligations.IaddPushesTheSum : Prop :=
  encode standardOpcodes .iadd = [1] ∧
  ∀ (s : State), SpInRange s →
    (∀ a b, 1 ≤ s.sp → s.slot s.sp = some b → s.slot (s.sp - 1) = some a →
      inRange s.cfg.cellBits (a + b) = true →
      Completes .iadd s fun t => ReplacesTopTwo s t (a + b)) ∧
    (∀ a b, 1 ≤ s.sp → s.slot s.sp = some b → s.slot (s.sp - 1) = some a →
      inRange s.cfg.cellBits (a + b) = false →
      Faults .iadd s .overflow .arith none) ∧
    FaultsOnTwoPops .iadd s

/-- R101: ISUB replaces the top two cells by `a - b`, the earlier-pushed operand minus the later-pushed one. -/
def Obligations.IsubPushesTheDifference : Prop :=
  encode standardOpcodes .isub = [2] ∧
  ∀ (s : State), SpInRange s →
    (∀ a b, 1 ≤ s.sp → s.slot s.sp = some b → s.slot (s.sp - 1) = some a →
      inRange s.cfg.cellBits (a - b) = true →
      Completes .isub s fun t => ReplacesTopTwo s t (a - b)) ∧
    (∀ a b, 1 ≤ s.sp → s.slot s.sp = some b → s.slot (s.sp - 1) = some a →
      inRange s.cfg.cellBits (a - b) = false →
      Faults .isub s .overflow .arith none) ∧
    FaultsOnTwoPops .isub s

/-- R102: IMUL replaces the top two cells by `a * b`, the exact product. -/
def Obligations.ImulPushesTheProduct : Prop :=
  encode standardOpcodes .imul = [3] ∧
  ∀ (s : State), SpInRange s →
    (∀ a b, 1 ≤ s.sp → s.slot s.sp = some b → s.slot (s.sp - 1) = some a →
      inRange s.cfg.cellBits (a * b) = true →
      Completes .imul s fun t => ReplacesTopTwo s t (a * b)) ∧
    (∀ a b, 1 ≤ s.sp → s.slot s.sp = some b → s.slot (s.sp - 1) = some a →
      inRange s.cfg.cellBits (a * b) = false →
      Faults .imul s .overflow .arith none) ∧
    FaultsOnTwoPops .imul s

/-- R103: ILT replaces the top two cells by 1 if `a < b` and by 0 otherwise, and never raises Overflow. -/
def Obligations.IltPushesOneOrZero : Prop :=
  encode standardOpcodes .ilt = [4] ∧
  ∀ (s : State), SpInRange s →
    (∀ a b, 1 ≤ s.sp → s.slot s.sp = some b → s.slot (s.sp - 1) = some a →
      Completes .ilt s fun t => ReplacesTopTwo s t (if a < b then 1 else 0)) ∧
    FaultsOnTwoPops .ilt s

/-- R104: IEQ replaces the top two cells by 1 if `a = b` and by 0 otherwise, and never raises Overflow. -/
def Obligations.IeqPushesOneOrZero : Prop :=
  encode standardOpcodes .ieq = [5] ∧
  ∀ (s : State), SpInRange s →
    (∀ a b, 1 ≤ s.sp → s.slot s.sp = some b → s.slot (s.sp - 1) = some a →
      Completes .ieq s fun t => ReplacesTopTwo s t (if a = b then 1 else 0)) ∧
    FaultsOnTwoPops .ieq s

/-! ### Branches (spec/42_branch.md) -/

/-- R110: BR sets `ip` to its target, any integer, and changes nothing else; cut short by the end of code, it faults
at its operand fetch. -/
def Obligations.BrJumpsToTheTarget : Prop :=
  ∀ (s : State) (target : Int), encode standardOpcodes (.br target) = [6, target] ∧
    (Completes (.br target) s fun t =>
      t.ip = target ∧ t.sp = s.sp ∧ t.fp = s.fp ∧ t.out = s.out ∧
      SameStack s t ∧ SameGlobals s t ∧ SameEngine s t) ∧
    FaultsWhenTruncated .br s

/-- R111: BRT pops one cell and branches for the value 1 alone; cut short, it faults as BR does. -/
def Obligations.BrtBranchesOnOneOnly : Prop :=
  ∀ (s : State) (target : Int), SpInRange s → encode standardOpcodes (.brt target) = [7, target] ∧
    (∀ v, 0 ≤ s.sp → s.slot s.sp = some v →
      Completes (.brt target) s fun t =>
        t.ip = (if v = 1 then target else s.ip + 2) ∧ t.sp = s.sp - 1 ∧ t.fp = s.fp ∧ t.out = s.out ∧
        SameStack s t ∧ SameGlobals s t ∧ SameEngine s t) ∧
    FaultsOnPop (.brt target) s ∧
    FaultsWhenTruncated .brt s

/-- R112: BRF pops one cell and branches for the value 0 alone; cut short, it faults as BR does. -/
def Obligations.BrfBranchesOnZeroOnly : Prop :=
  ∀ (s : State) (target : Int), SpInRange s → encode standardOpcodes (.brf target) = [8, target] ∧
    (∀ v, 0 ≤ s.sp → s.slot s.sp = some v →
      Completes (.brf target) s fun t =>
        t.ip = (if v = 0 then target else s.ip + 2) ∧ t.sp = s.sp - 1 ∧ t.fp = s.fp ∧ t.out = s.out ∧
        SameStack s t ∧ SameGlobals s t ∧ SameEngine s t) ∧
    FaultsOnPop (.brf target) s ∧
    FaultsWhenTruncated .brf s

/-! ### Data movement (spec/43_data_movement.md) -/

/-- R120: ICONST pushes its operand unchanged, or faults on a full stack, or at its operand fetch when it is cut
short. -/
def Obligations.IconstPushesTheLiteral : Prop :=
  ∀ (s : State) (literal : Int), SpInRange s → encode standardOpcodes (.iconst literal) = [9, literal] ∧
    (s.sp < s.cfg.stackCapacity - 1 → Completes (.iconst literal) s fun t => PushesOne s t literal) ∧
    (s.sp = s.cfg.stackCapacity - 1 →
      Faults (.iconst literal) s .outOfBoundsAccess .stackPush (some s.cfg.stackCapacity)) ∧
    FaultsWhenTruncated .iconst s

/-- R121: LOAD pushes the slot at `fp + offset`, which must lie in the live stack. The address check comes first, then
the read, then the push. -/
def Obligations.LoadPushesTheFrameSlot : Prop :=
  ∀ (s : State) (offset : Int), SpInRange s → encode standardOpcodes (.load offset) = [10, offset] ∧
    (∀ v, 0 ≤ frameAddress offset s → frameAddress offset s ≤ s.sp → s.slot (frameAddress offset s) = some v →
      s.sp < s.cfg.stackCapacity - 1 → Completes (.load offset) s fun t => PushesOne s t v) ∧
    (frameAddress offset s < 0 ∨ s.sp < frameAddress offset s →
      Faults (.load offset) s .outOfBoundsAccess .frameRead (some (s.fp + offset))) ∧
    (0 ≤ frameAddress offset s → frameAddress offset s ≤ s.sp → s.slot (frameAddress offset s) = none →
      Faults (.load offset) s .uninitializedRead .frameRead (some (s.fp + offset))) ∧
    (0 ≤ frameAddress offset s → frameAddress offset s ≤ s.sp → s.slot (frameAddress offset s) ≠ none →
      s.sp = s.cfg.stackCapacity - 1 →
      Faults (.load offset) s .outOfBoundsAccess .stackPush (some s.cfg.stackCapacity))

/-- R122: GLOAD pushes a global cell. The bounds check comes first, then the read, then the push. -/
def Obligations.GloadPushesTheGlobal : Prop :=
  ∀ (s : State) (addr : Int), SpInRange s → encode standardOpcodes (.gload addr) = [11, addr] ∧
    (∀ v, 0 ≤ addr → addr ≤ s.cfg.globalsSize - 1 → s.global addr = some v →
      s.sp < s.cfg.stackCapacity - 1 → Completes (.gload addr) s fun t => PushesOne s t v) ∧
    (addr < 0 ∨ s.cfg.globalsSize - 1 < addr →
      Faults (.gload addr) s .outOfBoundsAccess .globalRead (some addr)) ∧
    (0 ≤ addr → addr ≤ s.cfg.globalsSize - 1 → s.global addr = none →
      Faults (.gload addr) s .uninitializedRead .globalRead (some addr)) ∧
    (0 ≤ addr → addr ≤ s.cfg.globalsSize - 1 → s.global addr ≠ none → s.sp = s.cfg.stackCapacity - 1 →
      Faults (.gload addr) s .outOfBoundsAccess .stackPush (some s.cfg.stackCapacity))

/-- R123: STORE pops a cell into the slot at `fp + offset`, which must lie in the live stack that the pop leaves. -/
def Obligations.StoreWritesTheFrameSlot : Prop :=
  ∀ (s : State) (offset : Int), SpInRange s → encode standardOpcodes (.store offset) = [12, offset] ∧
    (∀ v, 0 ≤ s.sp → s.slot s.sp = some v → 0 ≤ frameAddress offset s → frameAddress offset s ≤ s.sp - 1 →
      Completes (.store offset) s fun t =>
        t.ip = s.ip + 2 ∧ t.sp = s.sp - 1 ∧ t.fp = s.fp ∧ t.out = s.out ∧
        StackWrittenAt s t (frameAddress offset s) v ∧ SameGlobals s t ∧ SameEngine s t) ∧
    FaultsOnPop (.store offset) s ∧
    (0 ≤ s.sp → s.slot s.sp ≠ none → (frameAddress offset s < 0 ∨ s.sp - 1 < frameAddress offset s) →
      Faults (.store offset) s .outOfBoundsAccess .frameWrite (some (s.fp + offset)))

/-- R124: GSTORE pops a cell into a global cell. -/
def Obligations.GstoreWritesTheGlobal : Prop :=
  ∀ (s : State) (addr : Int), SpInRange s → encode standardOpcodes (.gstore addr) = [13, addr] ∧
    (∀ v, 0 ≤ s.sp → s.slot s.sp = some v → 0 ≤ globalAddress addr → globalAddress addr ≤ s.cfg.globalsSize - 1 →
      Completes (.gstore addr) s fun t =>
        t.ip = s.ip + 2 ∧ t.sp = s.sp - 1 ∧ t.fp = s.fp ∧ t.out = s.out ∧
        SameStack s t ∧ GlobalWrittenAt s t (globalAddress addr) v ∧ SameEngine s t) ∧
    FaultsOnPop (.gstore addr) s ∧
    (0 ≤ s.sp → s.slot s.sp ≠ none → (addr < 0 ∨ s.cfg.globalsSize - 1 < addr) →
      Faults (.gstore addr) s .outOfBoundsAccess .globalWrite (some addr))

/-- R125: PUTS pops a cell and appends it to `OUT`. -/
def Obligations.PutsAppendsToTheOutput : Prop :=
  encode standardOpcodes .puts = [14] ∧
  ∀ (s : State), SpInRange s →
    (∀ v, 0 ≤ s.sp → s.slot s.sp = some v →
      Completes .puts s fun t =>
        t.ip = s.ip + 1 ∧ t.sp = s.sp - 1 ∧ t.fp = s.fp ∧ t.out = s.out ++ [v] ∧
        SameStack s t ∧ SameGlobals s t ∧ SameEngine s t) ∧
    FaultsOnPop .puts s

/-- R126: POP discards the top cell, whose slot must have been written. -/
def Obligations.PopDiscardsTheTop : Prop :=
  encode standardOpcodes .pop = [15] ∧
  ∀ (s : State), SpInRange s →
    (∀ v, 0 ≤ s.sp → s.slot s.sp = some v →
      Completes .pop s fun t =>
        t.ip = s.ip + 1 ∧ t.sp = s.sp - 1 ∧ t.fp = s.fp ∧ t.out = s.out ∧
        SameStack s t ∧ SameGlobals s t ∧ SameEngine s t) ∧
    FaultsOnPop .pop s

/-! ### Call and return (spec/44_call_return.md) -/

/-- R140: CALL pushes the count, the frame pointer and the return address, points `fp` at the last of them and jumps;
with fewer than three free slots it faults and pushes nothing; cut short, it faults at the missing operand. -/
def Obligations.CallBuildsTheFrameHeader : Prop :=
  ∀ (s : State) (target n : Int), SpInRange s → encode standardOpcodes (.call target n) = [16, target, n] ∧
    (s.sp ≤ s.cfg.stackCapacity - 4 →
      Completes (.call target n) s fun t =>
        t.ip = target ∧ t.sp = s.sp + 3 ∧ t.fp = s.sp + 3 ∧ t.out = s.out ∧
        t.slot (s.sp + 1) = some n ∧ t.slot (s.sp + 2) = some s.fp ∧ t.slot (s.sp + 3) = some (s.ip + 3) ∧
        (∀ a, a ≠ s.sp + 1 → a ≠ s.sp + 2 → a ≠ s.sp + 3 → t.slot a = s.slot a) ∧
        SameGlobals s t ∧ SameEngine s t) ∧
    (s.cfg.stackCapacity - 4 < s.sp →
      Faults (.call target n) s .outOfBoundsAccess .stackPush (some s.cfg.stackCapacity)) ∧
    FaultsWhenTruncated .call s

/-- R141: RET restores `ip` and `fp` from the header at `fp`, discards the `n` arguments and pushes the return value;
its checks come in the order of the rule. -/
def Obligations.RetTearsDownTheFrame : Prop :=
  encode standardOpcodes .ret = [17] ∧
  ∀ (s : State), SpInRange s →
    (∀ rv r f n, 0 ≤ s.sp → s.slot s.sp = some rv → 2 ≤ s.fp → s.fp ≤ s.cfg.stackCapacity - 1 →
      s.slot s.fp = some r → s.slot (s.fp - 1) = some f → s.slot (s.fp - 2) = some n → 0 ≤ n → n ≤ s.fp - 2 →
      Completes .ret s fun t =>
        t.ip = r ∧ t.fp = f ∧ t.sp = s.fp - 2 - n ∧ t.out = s.out ∧
        StackWrittenAt s t (s.fp - 2 - n) rv ∧ SameGlobals s t ∧ SameEngine s t) ∧
    FaultsOnPop .ret s ∧
    (0 ≤ s.sp → s.slot s.sp ≠ none → (s.fp < 0 ∨ s.cfg.stackCapacity - 1 < s.fp) →
      Faults .ret s .outOfBoundsAccess .fpRestore (some s.fp)) ∧
    (0 ≤ s.sp → s.slot s.sp ≠ none → 0 ≤ s.fp → s.fp ≤ s.cfg.stackCapacity - 1 →
      (s.slot s.fp = none → Faults .ret s .uninitializedRead .stackPop (some s.fp)) ∧
      (s.fp = 0 → s.slot 0 ≠ none → Faults .ret s .outOfBoundsAccess .stackPop (some (-1))) ∧
      (1 ≤ s.fp → s.slot s.fp ≠ none → s.slot (s.fp - 1) = none →
        Faults .ret s .uninitializedRead .stackPop (some (s.fp - 1))) ∧
      (s.fp = 1 → s.slot 1 ≠ none → s.slot 0 ≠ none →
        Faults .ret s .outOfBoundsAccess .stackPop (some (-1))) ∧
      (2 ≤ s.fp → s.slot s.fp ≠ none → s.slot (s.fp - 1) ≠ none → s.slot (s.fp - 2) = none →
        Faults .ret s .uninitializedRead .stackPop (some (s.fp - 2))) ∧
      (∀ n, 2 ≤ s.fp → s.slot s.fp ≠ none → s.slot (s.fp - 1) ≠ none → s.slot (s.fp - 2) = some n →
        (n < 0 ∨ s.fp - 2 < n) →
        Faults .ret s .outOfBoundsAccess .argDiscard (some (s.fp - 3 - n))))

/-! ### Termination (spec/45_termination.md) -/

/-- R150: HALT ends the run HALTED with cause HALT_INSTR at its own address; `ip` is past it, and no step follows. -/
def Obligations.HaltEndsTheRun : Prop :=
  encode standardOpcodes .halt = [18] ∧
  ∀ (s : State), Completes .halt s fun t =>
    t.status = { s.status with state := .halted, haltCause := some .haltInstr, atIp := some s.ip } ∧
    t.ip = s.ip + 1 ∧ t.sp = s.sp ∧ t.fp = s.fp ∧ t.out = s.out ∧ t.cfg = s.cfg ∧
    SameStack s t ∧ SameGlobals s t ∧ ∀ u, step t ≠ .next u

/-- R151: INVALID ends the run INVALID, reported with its number and its address, and `ip` stays there. -/
def Obligations.InvalidEndsTheRun : Prop :=
  encode standardOpcodes .invalid = [0] ∧
  ∀ (s : State), Completes .invalid s fun t =>
    t.status = { s.status with
      state := .invalid, error := some .unknownOpcode,
      opcodeValue := some (s.cfg.opcodes.number .invalid), atIp := some s.ip } ∧
    t.ip = s.ip ∧ t.sp = s.sp ∧ t.fp = s.fp ∧ t.out = s.out ∧ t.cfg = s.cfg ∧
    SameStack s t ∧ SameGlobals s t

/-! ### Invariants of every step -/

/-- R21: every step keeps `-1 ≤ sp ≤ STACK_CAPACITY - 1`. -/
def Obligations.StepKeepsSpInRange : Prop :=
  ∀ (s t : State), SpInRange s → step s = .next t → SpInRange t

/-- Every step keeps both data memories in canonical form and inside their address spaces (R25, R26, R40). The
canonical form is the model's own (log 6). -/
def Obligations.StepKeepsMemoriesCanonical : Prop :=
  ∀ (s t : State), MemoriesCanonical s → step s = .next t → MemoriesCanonical t

/-- Every step keeps the written slots a prefix of the stack memory that holds the live stack: "every slot up to
the highest `sp` reached has been written" (D8). -/
def Obligations.StepKeepsTheWrittenPrefix : Prop :=
  ∀ (s t : State), WrittenPrefix s → step s = .next t → WrittenPrefix t

/-- R27 to R29: every step keeps the fields of STATUS as its state says. -/
def Obligations.StepKeepsStatusCoherent : Prop :=
  ∀ (s t : State), s.status.Coherent → step s = .next t → t.status.Coherent

/-- Every value in a data memory stays a cell value (R12), as long as the addresses CALL saves are cell values too:
CALL's rule tests no range (log 12). -/
def Obligations.StepKeepsValuesInRange : Prop :=
  ∀ (s t : State), legalWidth s.cfg.cellBits = true → AddressesInRange s → ValuesInRange s →
    step s = .next t → AddressesInRange t ∧ ValuesInRange t

/-- The invariants hold after every launch that passes the launch check. -/
def Obligations.LaunchMeetsTheInvariants : Prop :=
  ∀ (c : Config), launchOk c = true →
    SpInRange (State.launch c) ∧ MemoriesCanonical (State.launch c) ∧ WrittenPrefix (State.launch c) ∧
    (State.launch c).status.Coherent ∧ ValuesInRange (State.launch c)

/-- The invariants hold at the model's reset state. The reset state is the model's choice where the spec leaves the
sizes to the launch (log 2, log 3); the statement holds for its values. -/
def Obligations.ResetMeetsTheInvariants : Prop :=
  SpInRange State.reset ∧ MemoriesCanonical State.reset ∧ WrittenPrefix State.reset ∧
  State.reset.status.Coherent ∧ ValuesInRange State.reset ∧ AddressesInRange State.reset

/-! ### Launch and reset (spec/70_reset_and_hazards.md) -/

/-- R190: what a launch sets. -/
def Obligations.LaunchSetsTheResetValues : Prop :=
  ∀ (c : Config),
    (State.launch c).cfg = c ∧ (State.launch c).ip = c.startIp ∧ (State.launch c).sp = -1 ∧
    (State.launch c).fp = c.fpReset ∧
    (∀ a, (State.launch c).slot a = none) ∧ (∀ a, (State.launch c).global a = none) ∧
    (State.launch c).out = [] ∧
    (launchOk c = true → (State.launch c).status = Status.ofRunning) ∧
    (launchOk c = false →
      (State.launch c).status = { Status.ofRunning with state := .malformed, error := some .malformedProgram })

/-- R193: the launch is MALFORMED exactly when one of the four conditions holds; then no step runs, and every other
field is at its reset value. -/
def Obligations.LaunchCheckRefusesExactly : Prop :=
  ∀ (c : Config),
    ((State.launch c).status.state = .malformed ↔
      ((c.startIp < 0 ∨ c.len - 1 < c.startIp) ∨ c.stackCapacity ≤ 0 ∨ c.globalsSize < 0 ∨
        ∃ w v, c.cellBits = .bits w ∧ v ∈ c.code ∧ inRange (.bits w) v = false)) ∧
    ((State.launch c).status.state = .malformed →
      (State.launch c).status = { Status.ofRunning with state := .malformed, error := some .malformedProgram } ∧
      (State.launch c).ip = c.startIp ∧ (State.launch c).sp = -1 ∧ (State.launch c).fp = c.fpReset ∧
      (∀ a, (State.launch c).slot a = none) ∧ (∀ a, (State.launch c).global a = none) ∧
      (State.launch c).out = [] ∧ ∀ t, step (State.launch c) ≠ .next t)

/-- The model's reset state is a launch with no program, which R193 finds malformed. That no program is supplied at
reset, and the two sizes, are the model's choice (log 2, log 3). -/
def Obligations.ResetHasNoProgram : Prop :=
  State.reset.cfg.code = [] ∧ State.reset.ip = 0 ∧ State.reset.sp = -1 ∧ State.reset.fp = 0 ∧
  State.reset.out = [] ∧ State.reset.status.state = .malformed ∧
  State.reset.status.error = some .malformedProgram

/-- How an instruction comes to run from any state: with the cells of a table entry placed where the next step fetches,
the next step is the execution of the instruction the decoder reads from that entry (log 2, log 11). -/
def Obligations.PlacedTableEntryRunsNext : Prop :=
  ∀ (s : State) (nbits w : Nat) (i : Instr), decodeTableWord nbits w = some i →
    step (s.withFetchWord nbits w) = exec i (s.withFetchWord nbits w)

/-! ### Rules of the whole machine -/

/-- R70, R174: a terminal state has no step. -/
def Obligations.TerminalStateHasNoStep : Prop :=
  ∀ (s : State), s.status.state ≠ .running → ∀ t, step s ≠ .next t

/-- R198: every RUNNING state has exactly one next state. -/
def Obligations.RunningStateHasOneNextState : Prop :=
  ∀ (s : State), s.status.state = .running → ∃ t, step s = .next t ∧ ∀ u, step s = .next u → u = t

/-- R32, R57: no step changes the configuration, the code among it. -/
def Obligations.NoStepChangesTheConfiguration : Prop :=
  ∀ (s t : State), step s = .next t → t.cfg = s.cfg

/-- R170: a step that ends in FAULT or INVALID changes STATUS alone; both data memories are as they were. -/
def Obligations.FatalConditionsArePrecise : Prop :=
  ∀ (s t : State), step s = .next t → (t.status.state = .fault ∨ t.status.state = .invalid) →
    t.cfg = s.cfg ∧ t.ip = s.ip ∧ t.sp = s.sp ∧ t.fp = s.fp ∧ t.stack = s.stack ∧ t.globals = s.globals ∧
    t.out = s.out

/-- R164: a run-time fatal condition records the address of the opcode cell and its value, or no value when the fetch
at a negative address failed; the state is INVALID for UnknownOpcode alone; `halt_cause` stays as it was. -/
def Obligations.FatalConditionsRecordTheOpcodeCell : Prop :=
  ∀ (s t : State), step s = .next t → (t.status.state = .fault ∨ t.status.state = .invalid) →
    t.status.atIp = some s.ip ∧
    t.status.opcodeValue = (if s.ip < 0 then none else s.cfg.code[s.ip.toNat]?) ∧
    t.status.haltCause = s.status.haltCause ∧
    (t.status.state = .invalid ↔ t.status.error = some .unknownOpcode)

/-- R165: executing an instruction raises only the conditions the table lists for it. -/
def Obligations.InstructionsRaiseOnlyTheTable : Prop :=
  ∀ (i : Instr) (s t : State), s.status.state = .running → exec i s = .next t → t.status.state = .fault →
    ∃ e k, t.status.error = some e ∧ t.status.access = some k ∧ (e, k) ∈ raisesTable i

/-- R161: the address an OutOfBoundsAccess records, for every access kind of the execute stage. -/
def Obligations.OutOfBoundsRecordsTheAddress : Prop :=
  ∀ (i : Instr) (s t : State), SpInRange s → s.status = Status.ofRunning → exec i s = .next t →
    t.status.error = some .outOfBoundsAccess →
    (t.status.access = some .stackPush ∧ t.status.address = some s.cfg.stackCapacity) ∨
    (t.status.access = some .stackPop ∧ t.status.address = some (-1)) ∨
    (∃ o, i = .load o ∧ t.status.access = some .frameRead ∧ t.status.address = some (s.fp + o)) ∨
    (∃ o, i = .store o ∧ t.status.access = some .frameWrite ∧ t.status.address = some (s.fp + o)) ∨
    (∃ a, i = .gload a ∧ t.status.access = some .globalRead ∧ t.status.address = some a) ∨
    (∃ a, i = .gstore a ∧ t.status.access = some .globalWrite ∧ t.status.address = some a) ∨
    (i = .ret ∧ t.status.access = some .fpRestore ∧ t.status.address = some s.fp) ∨
    (i = .ret ∧ t.status.access = some .argDiscard ∧
      ∃ n, s.slot (s.fp - 2) = some n ∧ t.status.address = some (s.fp - 3 - n))

/-- From R162: an UninitializedRead records STACK_POP, FRAME_READ (LOAD) or GLOBAL_READ (GLOAD), and the address of a
slot or cell that holds `UNINIT`. Which slot a pop reads is said by each instruction's own statement
(`FaultsOnPop`, `FaultsOnTwoPops`, and RET's). -/
def Obligations.UninitializedReadRecordsTheCell : Prop :=
  ∀ (i : Instr) (s t : State), SpInRange s → s.status = Status.ofRunning → exec i s = .next t →
    t.status.error = some .uninitializedRead →
    ∃ a, t.status.address = some a ∧
      ((t.status.access = some .stackPop ∧ s.slot a = none) ∨
       (∃ o, i = .load o ∧ t.status.access = some .frameRead ∧ a = s.fp + o ∧ s.slot a = none) ∨
       (i = .gload a ∧ t.status.access = some .globalRead ∧ s.global a = none))

/-- R163: Overflow records ARITH and no address, and no step raises it with an unbounded `CELL_BITS`. -/
def Obligations.OverflowNeedsFiniteCells : Prop :=
  ∀ (s t : State), s.status = Status.ofRunning → step s = .next t → t.status.error = some .overflow →
    t.status.access = some .arith ∧ t.status.address = none ∧ s.cfg.cellBits ≠ .unbounded

/-- D8: an unwritten stack slot is read only by RET's header pops; any other UninitializedRead is GLOAD's. -/
def Obligations.OnlyRetReadsUnwrittenSlots : Prop :=
  ∀ (i : Instr) (s t : State), SpInRange s → WrittenPrefix s → s.status = Status.ofRunning →
    exec i s = .next t → t.status.error = some .uninitializedRead →
    (i = .ret ∧ t.status.access = some .stackPop) ∨ (∃ a, i = .gload a ∧ t.status.access = some .globalRead)

/-- R30: `OUT` changes only by PUTS, which appends the top of the stack. -/
def Obligations.OnlyPutsChangesTheOutput : Prop :=
  ∀ (s t : State), step s = .next t →
    t.out = s.out ∨ (fetch s = .instr .puts ∧ ∃ v, s.slot s.sp = some v ∧ t.out = s.out ++ [v])

/-- R26, R40: a global cell changes only by a GSTORE to its address. -/
def Obligations.OnlyGstoreChangesTheGlobals : Prop :=
  ∀ (s t : State), step s = .next t → ∀ a, t.global a ≠ s.global a → fetch s = .instr (.gstore a)

/-- R22: `fp` changes only by CALL, which sets it to the new `sp`, and by RET, which takes it from the slot below the
one `fp` addresses. -/
def Obligations.OnlyCallAndRetChangeFp : Prop :=
  ∀ (s t : State), step s = .next t → t.fp ≠ s.fp →
    (∃ target n, fetch s = .instr (.call target n) ∧ t.fp = t.sp) ∨
    (fetch s = .instr .ret ∧ s.slot (s.fp - 1) = some t.fp)

/-- R74: an instruction that does not transfer control and ends the step RUNNING or HALTED leaves `ip` at the next
sequential instruction. -/
def Obligations.SequentialInstructionsAdvanceIp : Prop :=
  ∀ (s t : State) (i : Instr), fetch s = .instr i → step s = .next t →
    (t.status.state = .running ∨ t.status.state = .halted) →
    (i.opcode ≠ .br ∧ i.opcode ≠ .brt ∧ i.opcode ≠ .brf ∧ i.opcode ≠ .call ∧ i.opcode ≠ .ret) →
    t.ip = s.ip + i.length

/-- R29: STATUS is written exactly once, on entering a terminal state. -/
def Obligations.StatusIsWrittenOnEndingOnly : Prop :=
  ∀ (s t : State), step s = .next t →
    s.status.state = .running ∧ (t.status = s.status ∨ t.status.state ≠ .running)

/-- R30: no instruction reads `OUT`. From two states that differ in `OUT` alone, a step appends the same elements and
does everything else alike. -/
def Obligations.NoInstructionReadsTheOutput : Prop :=
  ∀ (s t : State) (o : List Int), step s = .next t →
    ∃ w, t.out = s.out ++ w ∧ step { s with out := o } = .next { t with out := o ++ w }

/-- R25: only RET reads a slot above `sp`. Any other instruction does the same in two states that differ in such slots
alone, and leaves them different in such slots alone. -/
def Obligations.DeadSlotsAreReadByRetOnly : Prop :=
  ∀ (i : Instr) (s t : State) (m : Memory), i ≠ .ret → (∀ a, a ≤ s.sp → m.cell a = s.slot a) →
    exec i s = .next t →
    ∃ t', exec i { s with stack := m } = .next t' ∧
      { t' with stack := t.stack } = t ∧ ∀ a, a ≤ t.sp → t'.slot a = t.slot a

/-! ### Conventions the rules give -/

/-- R143: after a CALL, the header and the arguments lie where the table says. -/
def Obligations.CallLaysOutTheFrame : Prop :=
  ∀ (s : State) (target : Int) (args : List Int), SpInRange s → s.sp ≤ s.cfg.stackCapacity - 4 →
    (∀ (j : Nat) (v : Int), args[j]? = some v → s.slot (s.sp - args.length + 1 + j) = some v) →
    Completes (.call target args.length) s fun t =>
      t.slot t.fp = some (s.ip + 3) ∧ t.slot (t.fp - 1) = some s.fp ∧ t.slot (t.fp - 2) = some (args.length : Int) ∧
      ∀ (j : Nat) (v : Int), args[j]? = some v → t.slot (t.fp - 2 - args.length + j) = some v

/-- R141, R142: a callee that leaves the slots up to its `fp` as CALL made them, and `fp` itself, returns by RET to the
cell after the CALL, with the caller's `fp`, the arguments gone, the return value in their place and every slot below
it as the caller had it. -/
def Obligations.RetUndoesCall : Prop :=
  ∀ (s : State) (target n : Int), SpInRange s → s.sp ≤ s.cfg.stackCapacity - 4 → 0 ≤ n → n ≤ s.sp + 1 →
    Completes (.call target n) s fun t =>
      ∀ (u : State) (rv : Int), u.cfg = s.cfg → u.fp = t.fp → (∀ a, a ≤ t.fp → u.slot a = t.slot a) →
        t.fp ≤ u.sp → u.sp ≤ s.cfg.stackCapacity - 1 → u.slot u.sp = some rv →
        Completes .ret u fun w =>
          w.ip = s.ip + 3 ∧ w.fp = s.fp ∧ w.sp = s.sp - n + 1 ∧ w.slot w.sp = some rv ∧
          (∀ a, a < w.sp → w.slot a = s.slot a) ∧ SameGlobals u w ∧ w.out = u.out ∧ SameEngine u w

/-- R124: a GLOAD right after a GSTORE to the same address gives the stored value back, for every address within bounds
and every integer. -/
def Obligations.GloadReadsBackGstore : Prop :=
  ∀ (s : State) (addr v : Int), SpInRange s → 0 ≤ s.sp → s.slot s.sp = some v →
    0 ≤ addr → addr ≤ s.cfg.globalsSize - 1 →
    Completes (.gstore addr) s fun t =>
      Completes (.gload addr) t fun u => u.sp = s.sp ∧ u.slot u.sp = some v ∧ u.global addr = some v

/-! ### The executor and the host's rendering -/

/-- R75, in the model's own executor (log 16): a run under fuel reports the end of the run only in a terminal state,
and running out of fuel only in a RUNNING one; it is never stuck; and more fuel changes no run that has ended. -/
def Obligations.FuelIsNoStatus : Prop :=
  ∀ (k : Nat) (s : State),
    (∀ t, runFuel k s = .ended t → t.status.state ≠ .running ∧ ∀ m, runFuel (k + m) s = .ended t) ∧
    (∀ t, runFuel k s = .outOfFuel t → t.status.state = .running) ∧
    (∀ t, runFuel k s ≠ .stuck t)

/-- R180: the line of an element is `OUTPUT: `, a `-` for a negative value, its decimal digits with no leading zero,
and a newline; the lines appear in `OUT` order. -/
def Obligations.OutputLinesAreDecimal : Prop :=
  (∀ v : Int, ∃ ds : List Nat,
    (∀ d ∈ ds, d < 10) ∧ (ds.head? = some 0 → ds = [0]) ∧ ds ≠ [] ∧
    ds.foldl (fun n d => 10 * n + d) 0 = v.natAbs ∧
    outputLine v = ['O', 'U', 'T', 'P', 'U', 'T', ':', ' '] ++ (if v < 0 then ['-'] else []) ++
      ds.map Nat.digitChar ++ ['\n']) ∧
  (∀ (o : List Int) (v : Int), renderOutput (o ++ [v]) = renderOutput o ++ outputLine v)
end

