-- ==== Sys2Proof/Laws/Decode.lean ====
section
/-! SUPPORT. The catalog and the opcode map (spec/30_encoding.md R63). -/

namespace Sys2Proof

theorem mem_allOpcodes (o : Opcode) : o ∈ allOpcodes := by cases o <;> decide

theorem standardOpcodes_wf : standardOpcodes.wf := by decide

/-- A found opcode has the value it was looked up by. -/
theorem number_of_find {m : OpcodeMap} {v : Int} {o : Opcode} (h : m.find v = some o) : m.number o = v := by
  simpa using List.find?_some h

/-- With an injective map, looking up an opcode's number finds that opcode. -/
theorem find_number {m : OpcodeMap} (hm : m.wf) (o : Opcode) : m.find (m.number o) = some o := by
  have inj : ∀ a ∈ allOpcodes, ∀ b ∈ allOpcodes, m.number a = m.number b → a = b :=
    fun a ha b hb => List.inj_on_of_nodup_map hm ha hb
  cases h : m.find (m.number o) with
  | none =>
    have := List.find?_eq_none.1 h o (mem_allOpcodes o)
    simp at this
  | some p => rw [inj p (mem_allOpcodes p) o (mem_allOpcodes o) (number_of_find h)]

end Sys2Proof
end

