-- ==== Sys2Proof/Laws/Memory.lean ====
section
/-! SUPPORT. The laws of one data memory: read after write, and the canonical form. -/

namespace Sys2Proof.Machine

@[simp] theorem read_write_self (m : Memory) (k : Nat) (v : Int) : (m.write k v).read k = some v := by
  induction m with
  | nil => simp [Memory.write, Memory.read]
  | cons c m ih =>
    obtain ⟨a, w⟩ := c
    simp only [Memory.write]
    split
    · simp [Memory.read]
    · split
      · simp [Memory.read]
      · rename_i h; simp [Memory.read, Ne.symm h, ih]

theorem read_write_of_ne (m : Memory) {k j : Nat} (v : Int) (h : j ≠ k) :
    (m.write k v).read j = m.read j := by
  induction m with
  | nil => simp [Memory.write, Memory.read, h.symm]
  | cons c m ih =>
    obtain ⟨a, w⟩ := c
    simp only [Memory.write]
    split
    · simp [Memory.read, h.symm]
    · split
      · rename_i e; subst e; simp [Memory.read, h.symm]
      · simp [Memory.read, ih]

theorem cell_of_nonneg (m : Memory) {a : Int} (h : 0 ≤ a) : m.cell a = m.read a.toNat := by
  simp [Memory.cell, not_lt.2 h]

/-- Reading any cell after a write to address `a`. -/
theorem cell_write (m : Memory) {a : Int} (h : 0 ≤ a) (v : Int) (b : Int) :
    (m.write a.toNat v).cell b = if b = a then some v else m.cell b := by
  by_cases hb : b < 0
  · have : b ≠ a := by omega
    simp [Memory.cell, hb, this]
  · by_cases e : b = a
    · subst e; simp [Memory.cell, hb]
    · have : b.toNat ≠ a.toNat := by omega
      simp [Memory.cell, hb, e, read_write_of_ne m v this]

/-- The entries of a memory after a write: the new one, and old ones. -/
theorem mem_write (m : Memory) (k : Nat) (v : Int) {c : Nat × Int} (h : c ∈ m.write k v) :
    c = (k, v) ∨ c ∈ m := by
  induction m with
  | nil => simpa [Memory.write] using h
  | cons d m ih =>
    obtain ⟨a, w⟩ := d
    simp only [Memory.write] at h
    split at h
    · simpa using h
    · split at h
      · rcases List.mem_cons.1 h with h | h
        · exact .inl h
        · exact .inr (List.mem_cons_of_mem _ h)
      · rcases List.mem_cons.1 h with h | h
        · exact .inr (h ▸ List.mem_cons_self)
        · exact (ih h).imp_right (List.mem_cons_of_mem _)

/-- A write keeps the canonical form. -/
theorem write_wf (m : Memory) (k : Nat) (v : Int) (h : m.wf) : (m.write k v).wf := by
  induction m with
  | nil => simp [Memory.write, Memory.wf]
  | cons d m ih =>
    obtain ⟨a, w⟩ := d
    obtain ⟨hd, hm⟩ := List.pairwise_cons.1 h
    simp only [Memory.write]
    split
    · rename_i hk
      refine List.pairwise_cons.2 ⟨fun c hc => ?_, h⟩
      rcases List.mem_cons.1 hc with rfl | hc
      · exact hk
      · exact lt_trans hk (hd c hc)
    · split
      · rename_i e; subst e; exact List.pairwise_cons.2 ⟨hd, hm⟩
      · refine List.pairwise_cons.2 ⟨fun c hc => ?_, ih hm⟩
        rcases mem_write m k v hc with rfl | hc
        · show a < k; omega
        · exact hd c hc

/-- In canonical form, two memories that read alike are the same list. -/
theorem eq_of_read_eq {m n : Memory} (hm : m.wf) (hn : n.wf) (h : ∀ k, m.read k = n.read k) : m = n := by
  have below : ∀ (l : Memory) (k : Nat), (∀ c ∈ l, k < c.1) → l.read k = none := by
    intro l k
    induction l with
    | nil => simp [Memory.read]
    | cons c l ih =>
      intro hc
      have := hc c (by simp)
      simp only [Memory.read, if_neg (show ¬ c.1 = k by omega)]
      exact ih fun d hd => hc d (by simp [hd])
  induction m generalizing n with
  | nil =>
    cases n with
    | nil => rfl
    | cons d n => have := h d.1; simp [Memory.read] at this
  | cons c m ih =>
    cases n with
    | nil => have := h c.1; simp [Memory.read] at this
    | cons d n =>
      obtain ⟨hc, hm'⟩ := List.pairwise_cons.1 hm
      obtain ⟨hd, hn'⟩ := List.pairwise_cons.1 hn
      have key : c.1 = d.1 := by
        rcases lt_trichotomy c.1 d.1 with hlt | he | hlt
        · have h1 := h c.1
          rw [below (d :: n) c.1 (by
            intro e he; rcases List.mem_cons.1 he with rfl | he
            · exact hlt
            · exact lt_trans hlt (hd e he))] at h1
          simp [Memory.read] at h1
        · exact he
        · have h1 := h d.1
          rw [below (c :: m) d.1 (by
            intro e he; rcases List.mem_cons.1 he with rfl | he
            · exact hlt
            · exact lt_trans hlt (hc e he))] at h1
          simp [Memory.read] at h1
      have hv : c.2 = d.2 := by
        have h1 := h c.1
        simpa [Memory.read, key] using h1
      have tail : m = n := by
        refine ih hm' hn' fun k => ?_
        by_cases hk : c.1 = k
        · rw [below m k (by intro e he; rw [← hk]; exact hc e he),
            below n k (by intro e he; rw [← hk, key]; exact hd e he)]
        · have h1 := h k
          simpa [Memory.read, hk, (show ¬ d.1 = k by rw [← key]; exact hk)] using h1
      rw [Prod.ext key hv, tail]

end Sys2Proof.Machine
end

