-- ==== Sys2Proof/Laws/State.lean ====
section
/-! SUPPORT. Each named update of the state, field by field, all by `rfl`. -/

namespace Sys2Proof.Machine

/-! ### `State.launch` -/

@[simp] theorem launch_cfg (c : Config) :
    (State.launch c).cfg = c := rfl
@[simp] theorem launch_ip (c : Config) :
    (State.launch c).ip = c.startIp := rfl
@[simp] theorem launch_sp (c : Config) :
    (State.launch c).sp = -1 := rfl
@[simp] theorem launch_fp (c : Config) :
    (State.launch c).fp = c.fpReset := rfl
@[simp] theorem launch_stack (c : Config) :
    (State.launch c).stack = [] := rfl
@[simp] theorem launch_globals (c : Config) :
    (State.launch c).globals = [] := rfl
@[simp] theorem launch_status (c : Config) :
    (State.launch c).status = launchStatus c := rfl
@[simp] theorem launch_out (c : Config) :
    (State.launch c).out = [] := rfl
@[simp] theorem launch_slot (c : Config) (b : Int) :
    (State.launch c).slot b = none := by simp [State.slot, Memory.cell, Memory.read]
@[simp] theorem launch_global (c : Config) (b : Int) :
    (State.launch c).global b = none := by simp [State.global, Memory.cell, Memory.read]

/-! ### `emit` -/

@[simp] theorem emit_cfg (v : Int) (s : State) :
    (emit v s).cfg = s.cfg := rfl
@[simp] theorem emit_ip (v : Int) (s : State) :
    (emit v s).ip = s.ip := rfl
@[simp] theorem emit_sp (v : Int) (s : State) :
    (emit v s).sp = s.sp := rfl
@[simp] theorem emit_fp (v : Int) (s : State) :
    (emit v s).fp = s.fp := rfl
@[simp] theorem emit_stack (v : Int) (s : State) :
    (emit v s).stack = s.stack := rfl
@[simp] theorem emit_globals (v : Int) (s : State) :
    (emit v s).globals = s.globals := rfl
@[simp] theorem emit_status (v : Int) (s : State) :
    (emit v s).status = s.status := rfl
@[simp] theorem emit_out (v : Int) (s : State) :
    (emit v s).out = s.out ++ [v] := rfl
@[simp] theorem emit_slot (v : Int) (s : State) (b : Int) :
    (emit v s).slot b = s.slot b := rfl
@[simp] theorem emit_global (v : Int) (s : State) (b : Int) :
    (emit v s).global b = s.global b := rfl

/-! ### `jump` -/

@[simp] theorem jump_cfg (a : Int) (s : State) :
    (jump a s).cfg = s.cfg := rfl
@[simp] theorem jump_ip (a : Int) (s : State) :
    (jump a s).ip = a := rfl
@[simp] theorem jump_sp (a : Int) (s : State) :
    (jump a s).sp = s.sp := rfl
@[simp] theorem jump_fp (a : Int) (s : State) :
    (jump a s).fp = s.fp := rfl
@[simp] theorem jump_stack (a : Int) (s : State) :
    (jump a s).stack = s.stack := rfl
@[simp] theorem jump_globals (a : Int) (s : State) :
    (jump a s).globals = s.globals := rfl
@[simp] theorem jump_status (a : Int) (s : State) :
    (jump a s).status = s.status := rfl
@[simp] theorem jump_out (a : Int) (s : State) :
    (jump a s).out = s.out := rfl
@[simp] theorem jump_slot (a : Int) (s : State) (b : Int) :
    (jump a s).slot b = s.slot b := rfl
@[simp] theorem jump_global (a : Int) (s : State) (b : Int) :
    (jump a s).global b = s.global b := rfl

/-! ### `advance` -/

@[simp] theorem advance_cfg (i : Instr) (s : State) :
    (advance i s).cfg = s.cfg := rfl
@[simp] theorem advance_ip (i : Instr) (s : State) :
    (advance i s).ip = s.ip + i.length := rfl
@[simp] theorem advance_sp (i : Instr) (s : State) :
    (advance i s).sp = s.sp := rfl
@[simp] theorem advance_fp (i : Instr) (s : State) :
    (advance i s).fp = s.fp := rfl
@[simp] theorem advance_stack (i : Instr) (s : State) :
    (advance i s).stack = s.stack := rfl
@[simp] theorem advance_globals (i : Instr) (s : State) :
    (advance i s).globals = s.globals := rfl
@[simp] theorem advance_status (i : Instr) (s : State) :
    (advance i s).status = s.status := rfl
@[simp] theorem advance_out (i : Instr) (s : State) :
    (advance i s).out = s.out := rfl
@[simp] theorem advance_slot (i : Instr) (s : State) (b : Int) :
    (advance i s).slot b = s.slot b := rfl
@[simp] theorem advance_global (i : Instr) (s : State) (b : Int) :
    (advance i s).global b = s.global b := rfl

/-! ### `haltRun` -/

@[simp] theorem haltRun_cfg (cause : HaltCause) (a : Int) (s : State) :
    (haltRun cause a s).cfg = s.cfg := rfl
@[simp] theorem haltRun_ip (cause : HaltCause) (a : Int) (s : State) :
    (haltRun cause a s).ip = s.ip := rfl
@[simp] theorem haltRun_sp (cause : HaltCause) (a : Int) (s : State) :
    (haltRun cause a s).sp = s.sp := rfl
@[simp] theorem haltRun_fp (cause : HaltCause) (a : Int) (s : State) :
    (haltRun cause a s).fp = s.fp := rfl
@[simp] theorem haltRun_stack (cause : HaltCause) (a : Int) (s : State) :
    (haltRun cause a s).stack = s.stack := rfl
@[simp] theorem haltRun_globals (cause : HaltCause) (a : Int) (s : State) :
    (haltRun cause a s).globals = s.globals := rfl
@[simp] theorem haltRun_status (cause : HaltCause) (a : Int) (s : State) :
    (haltRun cause a s).status = { s.status with state := .halted, haltCause := some cause, atIp := some a } := rfl
@[simp] theorem haltRun_out (cause : HaltCause) (a : Int) (s : State) :
    (haltRun cause a s).out = s.out := rfl
@[simp] theorem haltRun_slot (cause : HaltCause) (a : Int) (s : State) (b : Int) :
    (haltRun cause a s).slot b = s.slot b := rfl
@[simp] theorem haltRun_global (cause : HaltCause) (a : Int) (s : State) (b : Int) :
    (haltRun cause a s).global b = s.global b := rfl

/-! ### `takeFatal` -/

@[simp] theorem takeFatal_cfg (op : Option Int) (c : Fatal) (s : State) :
    (takeFatal op c s).cfg = s.cfg := rfl
@[simp] theorem takeFatal_ip (op : Option Int) (c : Fatal) (s : State) :
    (takeFatal op c s).ip = s.ip := rfl
@[simp] theorem takeFatal_sp (op : Option Int) (c : Fatal) (s : State) :
    (takeFatal op c s).sp = s.sp := rfl
@[simp] theorem takeFatal_fp (op : Option Int) (c : Fatal) (s : State) :
    (takeFatal op c s).fp = s.fp := rfl
@[simp] theorem takeFatal_stack (op : Option Int) (c : Fatal) (s : State) :
    (takeFatal op c s).stack = s.stack := rfl
@[simp] theorem takeFatal_globals (op : Option Int) (c : Fatal) (s : State) :
    (takeFatal op c s).globals = s.globals := rfl
@[simp] theorem takeFatal_status (op : Option Int) (c : Fatal) (s : State) :
    (takeFatal op c s).status = ⟨.fault, s.status.haltCause, some c.error, op, some s.ip, some c.access, c.address⟩ := rfl
@[simp] theorem takeFatal_out (op : Option Int) (c : Fatal) (s : State) :
    (takeFatal op c s).out = s.out := rfl
@[simp] theorem takeFatal_slot (op : Option Int) (c : Fatal) (s : State) (b : Int) :
    (takeFatal op c s).slot b = s.slot b := rfl
@[simp] theorem takeFatal_global (op : Option Int) (c : Fatal) (s : State) (b : Int) :
    (takeFatal op c s).global b = s.global b := rfl

/-! ### `takeUnknownOpcode` -/

@[simp] theorem takeUnknownOpcode_cfg (op : Int) (s : State) :
    (takeUnknownOpcode op s).cfg = s.cfg := rfl
@[simp] theorem takeUnknownOpcode_ip (op : Int) (s : State) :
    (takeUnknownOpcode op s).ip = s.ip := rfl
@[simp] theorem takeUnknownOpcode_sp (op : Int) (s : State) :
    (takeUnknownOpcode op s).sp = s.sp := rfl
@[simp] theorem takeUnknownOpcode_fp (op : Int) (s : State) :
    (takeUnknownOpcode op s).fp = s.fp := rfl
@[simp] theorem takeUnknownOpcode_stack (op : Int) (s : State) :
    (takeUnknownOpcode op s).stack = s.stack := rfl
@[simp] theorem takeUnknownOpcode_globals (op : Int) (s : State) :
    (takeUnknownOpcode op s).globals = s.globals := rfl
@[simp] theorem takeUnknownOpcode_status (op : Int) (s : State) :
    (takeUnknownOpcode op s).status =
      { s.status with
        state := .invalid
        error := some .unknownOpcode
        opcodeValue := some op
        atIp := some s.ip } := rfl
@[simp] theorem takeUnknownOpcode_out (op : Int) (s : State) :
    (takeUnknownOpcode op s).out = s.out := rfl
@[simp] theorem takeUnknownOpcode_slot (op : Int) (s : State) (b : Int) :
    (takeUnknownOpcode op s).slot b = s.slot b := rfl
@[simp] theorem takeUnknownOpcode_global (op : Int) (s : State) (b : Int) :
    (takeUnknownOpcode op s).global b = s.global b := rfl

/-! ### `launchCells` -/

@[simp] theorem launchCells_cfg (cells : List Int) (s : State) :
    (launchCells cells s).cfg = { s.cfg with code := placeCells s.cfg.code s.ip.toNat cells, opcodes := standardOpcodes } := rfl
@[simp] theorem launchCells_ip (cells : List Int) (s : State) :
    (launchCells cells s).ip = s.ip.toNat := rfl
@[simp] theorem launchCells_sp (cells : List Int) (s : State) :
    (launchCells cells s).sp = s.sp := rfl
@[simp] theorem launchCells_fp (cells : List Int) (s : State) :
    (launchCells cells s).fp = s.fp := rfl
@[simp] theorem launchCells_stack (cells : List Int) (s : State) :
    (launchCells cells s).stack = s.stack := rfl
@[simp] theorem launchCells_globals (cells : List Int) (s : State) :
    (launchCells cells s).globals = s.globals := rfl
@[simp] theorem launchCells_status (cells : List Int) (s : State) :
    (launchCells cells s).status = Status.ofRunning := rfl
@[simp] theorem launchCells_out (cells : List Int) (s : State) :
    (launchCells cells s).out = s.out := rfl
@[simp] theorem launchCells_slot (cells : List Int) (s : State) (b : Int) :
    (launchCells cells s).slot b = s.slot b := rfl
@[simp] theorem launchCells_global (cells : List Int) (s : State) (b : Int) :
    (launchCells cells s).global b = s.global b := rfl

end Sys2Proof.Machine
end

