-- ==== Sys2Proof/Laws/Ops.lean ====
section
/-! SUPPORT. What each shared operation can do, said once: when it answers, and what; when it raises, and what. -/

namespace Sys2Proof.Machine

/-! ### Sequencing -/

theorem bind_ok {α β : Type} (x : Except Fatal α) (f : α → Except Fatal β) (b : β) :
    (x >>= f) = .ok b ↔ ∃ a, x = .ok a ∧ f a = .ok b := by
  cases x <;> simp [bind, Except.bind]

theorem bind_error {α β : Type} (x : Except Fatal α) (f : α → Except Fatal β) (c : Fatal) :
    (x >>= f) = .error c ↔ x = .error c ∨ ∃ a, x = .ok a ∧ f a = .error c := by
  cases x <;> simp [bind, Except.bind]

/-! ### Cells -/

@[simp] theorem slot_mk (cfg : Config) (ip sp fp : Int) (m g : Memory) (st : Status) (o : List Int) (a : Int) :
    (State.mk cfg ip sp fp m g st o).slot a = m.cell a := rfl

@[simp] theorem global_mk (cfg : Config) (ip sp fp : Int) (m g : Memory) (st : Status) (o : List Int) (a : Int) :
    (State.mk cfg ip sp fp m g st o).global a = g.cell a := rfl

/-- No cell stands below address 0. -/
theorem cell_neg (m : Memory) {a : Int} (h : a < 0) : m.cell a = none := by simp [Memory.cell, h]

/-! ### Reads and writes -/

theorem readStack_ok (k : Access) (a v : Int) (s : State) :
    readStack k a s = .ok v ↔ 0 ≤ a ∧ a ≤ s.cfg.stackCapacity - 1 ∧ s.slot a = some v := by
  unfold readStack
  split
  · simp; omega
  · cases s.slot a <;> simp; omega

theorem readStack_error (k : Access) (a : Int) (c : Fatal) (s : State) :
    readStack k a s = .error c ↔
      ((a < 0 ∨ a > s.cfg.stackCapacity - 1) ∧ c = .outOfBounds k a) ∨
      (0 ≤ a ∧ a ≤ s.cfg.stackCapacity - 1 ∧ s.slot a = none ∧ c = .uninitialized k a) := by
  unfold readStack
  split
  · rename_i h
    simp only [Except.error.injEq, h, true_and]
    constructor
    · intro e; exact .inl e.symm
    · rintro (e | ⟨h1, h2, -⟩)
      · exact e.symm
      · omega
  · rename_i h
    have h1 : 0 ≤ a := by omega
    have h2 : a ≤ s.cfg.stackCapacity - 1 := by omega
    cases s.slot a <;> simp only [h, h1, h2, false_and, false_or, true_and, Except.error.injEq, reduceCtorEq, eq_comm]

theorem writeStack_ok (k : Access) (a v : Int) (s t : State) :
    writeStack k a v s = .ok t ↔
      0 ≤ a ∧ a ≤ s.cfg.stackCapacity - 1 ∧ t = { s with stack := s.stack.write a.toNat v } := by
  unfold writeStack
  split
  · simp; omega
  · simp only [Except.ok.injEq]
    constructor
    · intro e; exact ⟨by omega, by omega, e.symm⟩
    · rintro ⟨-, -, e⟩; exact e.symm

theorem writeStack_error (k : Access) (a v : Int) (c : Fatal) (s : State) :
    writeStack k a v s = .error c ↔ (a < 0 ∨ a > s.cfg.stackCapacity - 1) ∧ c = .outOfBounds k a := by
  unfold writeStack
  split <;> simp_all [eq_comm]

theorem readGlobal_ok (a v : Int) (s : State) :
    readGlobal a s = .ok v ↔ 0 ≤ a ∧ a ≤ s.cfg.globalsSize - 1 ∧ s.global a = some v := by
  unfold readGlobal
  split
  · simp; omega
  · cases s.global a <;> simp; omega

theorem readGlobal_error (a : Int) (c : Fatal) (s : State) :
    readGlobal a s = .error c ↔
      ((a < 0 ∨ a > s.cfg.globalsSize - 1) ∧ c = .outOfBounds .globalRead a) ∨
      (0 ≤ a ∧ a ≤ s.cfg.globalsSize - 1 ∧ s.global a = none ∧ c = .uninitialized .globalRead a) := by
  unfold readGlobal
  split
  · rename_i h
    simp only [Except.error.injEq, h, true_and]
    constructor
    · intro e; exact .inl e.symm
    · rintro (e | ⟨h1, h2, -⟩)
      · exact e.symm
      · omega
  · rename_i h
    have h1 : 0 ≤ a := by omega
    have h2 : a ≤ s.cfg.globalsSize - 1 := by omega
    cases s.global a <;> simp only [h, h1, h2, false_and, false_or, true_and, Except.error.injEq, reduceCtorEq, eq_comm]

theorem writeGlobal_ok (a v : Int) (s t : State) :
    writeGlobal a v s = .ok t ↔
      0 ≤ a ∧ a ≤ s.cfg.globalsSize - 1 ∧ t = { s with globals := s.globals.write a.toNat v } := by
  unfold writeGlobal
  split
  · simp; omega
  · simp only [Except.ok.injEq]
    constructor
    · intro e; exact ⟨by omega, by omega, e.symm⟩
    · rintro ⟨-, -, e⟩; exact e.symm

theorem writeGlobal_error (a v : Int) (c : Fatal) (s : State) :
    writeGlobal a v s = .error c ↔ (a < 0 ∨ a > s.cfg.globalsSize - 1) ∧ c = .outOfBounds .globalWrite a := by
  unfold writeGlobal
  split <;> simp_all [eq_comm]

/-- The memory operations keep both memories in canonical form (R25, R26). -/
theorem writeStack_wf {k : Access} {a v : Int} {s t : State} (h : writeStack k a v s = .ok t)
    (hs : s.stack.wf ∧ s.globals.wf) : t.stack.wf ∧ t.globals.wf := by
  obtain ⟨-, -, rfl⟩ := (writeStack_ok ..).1 h
  exact ⟨write_wf _ _ _ hs.1, hs.2⟩

theorem writeGlobal_wf {a v : Int} {s t : State} (h : writeGlobal a v s = .ok t)
    (hs : s.stack.wf ∧ s.globals.wf) : t.stack.wf ∧ t.globals.wf := by
  obtain ⟨-, -, rfl⟩ := (writeGlobal_ok ..).1 h
  exact ⟨hs.1, write_wf _ _ _ hs.2⟩

theorem reset_memories_wf : State.reset.stack.wf ∧ State.reset.globals.wf := by decide

/-! ### The stack controller -/

theorem push_ok (v : Int) (s t : State) :
    push v s = .ok t ↔
      -1 ≤ s.sp ∧ s.sp < s.cfg.stackCapacity - 1 ∧
      t = { s with sp := s.sp + 1, stack := s.stack.write (s.sp + 1).toNat v } := by
  unfold push
  split
  · simp; omega
  · rw [writeStack_ok]
    constructor
    · rintro ⟨h1, h2, h3⟩; exact ⟨by omega, by simp at h2; omega, h3⟩
    · rintro ⟨h1, h2, h3⟩; exact ⟨by omega, by simp; omega, h3⟩

theorem push_error (v : Int) (c : Fatal) (s : State) :
    push v s = .error c ↔
      (s.sp = s.cfg.stackCapacity - 1 ∧ c = .outOfBounds .stackPush s.cfg.stackCapacity) ∨
      ((s.sp < -1 ∨ s.sp > s.cfg.stackCapacity - 1) ∧ s.sp ≠ s.cfg.stackCapacity - 1 ∧
        c = .outOfBounds .stackPush (s.sp + 1)) := by
  unfold push
  split
  · rename_i h
    simp only [Except.error.injEq, h, true_and, ne_eq, not_true_eq_false, false_and, and_false, or_false]
    exact eq_comm
  · rename_i h
    rw [writeStack_error]
    constructor
    · rintro ⟨h1, h2⟩; exact .inr ⟨by simp at h1; omega, h, h2⟩
    · rintro (⟨h1, -⟩ | ⟨h1, -, h2⟩)
      · exact absurd h1 h
      · exact ⟨by simp; omega, h2⟩

theorem pop_ok (v : Int) (s t : State) :
    pop s = .ok (v, t) ↔
      0 ≤ s.sp ∧ s.sp ≤ s.cfg.stackCapacity - 1 ∧ s.slot s.sp = some v ∧ t = { s with sp := s.sp - 1 } := by
  unfold pop
  split
  · simp; omega
  · cases h : readStack .stackPop s.sp s with
    | error c =>
      simp only [reduceCtorEq, false_iff]
      rintro ⟨h1, h2, h3, -⟩
      rw [(readStack_ok .stackPop s.sp v s).2 ⟨h1, h2, h3⟩] at h
      cases h
    | ok w =>
      obtain ⟨h1, h2, h3⟩ := (readStack_ok ..).1 h
      simp [h1, h2, h3, eq_comm]

theorem pop_error (c : Fatal) (s : State) :
    pop s = .error c ↔
      (s.sp = -1 ∧ c = .outOfBounds .stackPop (-1)) ∨
      ((s.sp < -1 ∨ (s.sp > s.cfg.stackCapacity - 1 ∧ s.sp ≠ -1)) ∧ c = .outOfBounds .stackPop s.sp) ∨
      (0 ≤ s.sp ∧ s.sp ≤ s.cfg.stackCapacity - 1 ∧ s.slot s.sp = none ∧
        c = .uninitialized .stackPop s.sp) := by
  unfold pop
  split
  · rename_i h
    simp only [Except.error.injEq, h, true_and]
    constructor
    · intro e; exact .inl e.symm
    · rintro (e | ⟨h1, e⟩ | ⟨h1, -⟩)
      · exact e.symm
      · exact e.symm
      · omega
  · rename_i hne
    cases h : readStack .stackPop s.sp s with
    | error d =>
      simp only [Except.error.injEq]
      have := (readStack_error ..).1 h
      constructor
      · rintro rfl
        rcases this with ⟨h1, h2⟩ | ⟨h1, h2⟩
        · exact .inr (.inl ⟨by omega, h2⟩)
        · exact .inr (.inr ⟨h1, h2⟩)
      · rintro (⟨e, -⟩ | ⟨h1, e⟩ | ⟨h1, h2, h3, e⟩)
        · exact absurd e hne
        · rcases this with ⟨-, e'⟩ | ⟨h1', h2', -⟩
          · rw [e, e']
          · omega
        · rcases this with ⟨h1', -⟩ | ⟨-, -, -, e'⟩
          · omega
          · rw [e, e']
    | ok w =>
      obtain ⟨h1, h2, h3⟩ := (readStack_ok ..).1 h
      simp only [reduceCtorEq, false_iff]
      rintro (⟨e, -⟩ | ⟨h4, -⟩ | ⟨-, -, h4, -⟩)
      · exact hne e
      · omega
      · rw [h3] at h4; cases h4

/-! ### The addressing modes -/

theorem readFrame_ok (o v : Int) (s : State) :
    readFrame o s = .ok v ↔
      0 ≤ s.fp + o ∧ s.fp + o ≤ s.sp ∧ s.fp + o ≤ s.cfg.stackCapacity - 1 ∧ s.slot (s.fp + o) = some v := by
  unfold readFrame frameAddress
  split
  · simp; omega
  · rw [readStack_ok]
    constructor
    · rintro ⟨h1, h2, h3⟩; exact ⟨h1, by omega, h2, h3⟩
    · rintro ⟨h1, -, h2, h3⟩; exact ⟨h1, h2, h3⟩

theorem writeFrame_ok (o v : Int) (s t : State) :
    writeFrame o v s = .ok t ↔
      0 ≤ s.fp + o ∧ s.fp + o ≤ s.sp ∧ s.fp + o ≤ s.cfg.stackCapacity - 1 ∧
      t = { s with stack := s.stack.write (s.fp + o).toNat v } := by
  unfold writeFrame frameAddress
  split
  · simp; omega
  · rw [writeStack_ok]
    constructor
    · rintro ⟨h1, h2, h3⟩; exact ⟨h1, by omega, h2, h3⟩
    · rintro ⟨h1, -, h2, h3⟩; exact ⟨h1, h2, h3⟩

theorem readFrame_error (o : Int) (c : Fatal) (s : State) :
    readFrame o s = .error c ↔
      ((s.fp + o < 0 ∨ s.fp + o > s.sp ∨ s.fp + o > s.cfg.stackCapacity - 1) ∧
        c = .outOfBounds .frameRead (s.fp + o)) ∨
      (0 ≤ s.fp + o ∧ s.fp + o ≤ s.sp ∧ s.fp + o ≤ s.cfg.stackCapacity - 1 ∧ s.slot (s.fp + o) = none ∧
        c = .uninitialized .frameRead (s.fp + o)) := by
  unfold readFrame frameAddress
  split
  · rename_i h
    simp only [Except.error.injEq]
    constructor
    · intro e; exact .inl ⟨by omega, e.symm⟩
    · rintro (⟨-, e⟩ | ⟨h1, h2, -⟩)
      · exact e.symm
      · omega
  · rw [readStack_error]
    constructor
    · rintro (⟨h1, e⟩ | ⟨h1, h2, h3, e⟩)
      · exact .inl ⟨by omega, e⟩
      · exact .inr ⟨h1, by omega, h2, h3, e⟩
    · rintro (⟨h1, e⟩ | ⟨h1, -, h2, h3, e⟩)
      · exact .inl ⟨by omega, e⟩
      · exact .inr ⟨h1, h2, h3, e⟩

theorem writeFrame_error (o v : Int) (c : Fatal) (s : State) :
    writeFrame o v s = .error c ↔
      (s.fp + o < 0 ∨ s.fp + o > s.sp ∨ s.fp + o > s.cfg.stackCapacity - 1) ∧
        c = .outOfBounds .frameWrite (s.fp + o) := by
  unfold writeFrame frameAddress
  split
  · simp only [Except.error.injEq]
    constructor
    · intro e; exact ⟨by omega, e.symm⟩
    · rintro ⟨-, e⟩; exact e.symm
  · rw [writeStack_error]
    constructor
    · rintro ⟨h1, e⟩; exact ⟨by omega, e⟩
    · rintro ⟨h1, e⟩; exact ⟨by omega, e⟩

/-! ### The execute rules -/

theorem arithmetic_ok (f : Int → Int → Int) (s t : State) :
    arithmetic f s = .ok t ↔
      ∃ a b, 1 ≤ s.sp ∧ s.sp ≤ s.cfg.stackCapacity - 1 ∧ s.slot s.sp = some b ∧ s.slot (s.sp - 1) = some a ∧
        inRange s.cfg.cellBits (f a b) = true ∧
        t = { s with sp := s.sp - 1, stack := s.stack.write (s.sp - 1).toNat (f a b) } := by
  unfold arithmetic
  simp only [bind_ok, Prod.exists, pop_ok]
  constructor
  · rintro ⟨b, s₁, ⟨h1, h2, h3, rfl⟩, a, s₂, ⟨h4, -, h6, rfl⟩, h⟩
    simp only [slot_mk] at h6 h4 h
    split at h
    · obtain ⟨h7, h8, rfl⟩ := (push_ok ..).1 h
      refine ⟨a, b, by omega, h2, h3, h6, by assumption, ?_⟩
      simp only [sub_add_cancel]
    · cases h
  · rintro ⟨a, b, h1, h2, h3, h4, h5, rfl⟩
    refine ⟨b, _, ⟨by omega, h2, h3, rfl⟩, a, _, ⟨by simp; omega, by simp; omega, h4, rfl⟩, ?_⟩
    simp only [h5, if_true]
    exact (push_ok ..).2 ⟨by simp; omega, by simp; omega, by simp⟩

theorem comparison_ok (f : Int → Int → Bool) (s t : State) :
    comparison f s = .ok t ↔
      ∃ a b, 1 ≤ s.sp ∧ s.sp ≤ s.cfg.stackCapacity - 1 ∧ s.slot s.sp = some b ∧ s.slot (s.sp - 1) = some a ∧
        t = { s with sp := s.sp - 1, stack := s.stack.write (s.sp - 1).toNat (truthWord (f a b)) } := by
  unfold comparison
  simp only [bind_ok, Prod.exists, pop_ok]
  constructor
  · rintro ⟨b, s₁, ⟨h1, h2, h3, rfl⟩, a, s₂, ⟨h4, -, h6, rfl⟩, h⟩
    obtain ⟨h7, h8, rfl⟩ := (push_ok ..).1 h
    simp only at h4
    exact ⟨a, b, by omega, h2, h3, h6, by simp only [sub_add_cancel]⟩
  · rintro ⟨a, b, h1, h2, h3, h4, rfl⟩
    exact ⟨b, _, ⟨by omega, h2, h3, rfl⟩, a, _, ⟨by simp; omega, by simp; omega, h4, rfl⟩,
      (push_ok ..).2 ⟨by simp; omega, by simp; omega, by simp⟩⟩

theorem branchOn_ok (taken target : Int) (s t : State) :
    branchOn taken target s = .ok t ↔
      ∃ v, 0 ≤ s.sp ∧ s.sp ≤ s.cfg.stackCapacity - 1 ∧ s.slot s.sp = some v ∧
        t = { s with sp := s.sp - 1, ip := if v = taken then target else s.ip } := by
  unfold branchOn
  simp only [bind_ok, Prod.exists, pop_ok]
  constructor
  · rintro ⟨v, s₁, ⟨h1, h2, h3, rfl⟩, h⟩
    refine ⟨v, h1, h2, h3, ?_⟩
    split at h <;> simp_all [jump, eq_comm]
  · rintro ⟨v, h1, h2, h3, rfl⟩
    refine ⟨v, _, ⟨h1, h2, h3, rfl⟩, ?_⟩
    split <;> simp [jump, *]

theorem loadFrame_ok (o : Int) (s t : State) :
    loadFrame o s = .ok t ↔
      ∃ v, 0 ≤ s.fp + o ∧ s.fp + o ≤ s.sp ∧ s.sp < s.cfg.stackCapacity - 1 ∧ s.slot (s.fp + o) = some v ∧
        t = { s with sp := s.sp + 1, stack := s.stack.write (s.sp + 1).toNat v } := by
  unfold loadFrame
  simp only [bind_ok, readFrame_ok, push_ok]
  constructor
  · rintro ⟨v, ⟨h1, h2, h3, h4⟩, h5, h6, rfl⟩; exact ⟨v, h1, h2, h6, h4, rfl⟩
  · rintro ⟨v, h1, h2, h3, h4, rfl⟩
    exact ⟨v, ⟨h1, h2, by omega, h4⟩, by omega, h3, rfl⟩

theorem loadGlobal_ok (a : Int) (s t : State) :
    loadGlobal a s = .ok t ↔
      ∃ v, 0 ≤ a ∧ a ≤ s.cfg.globalsSize - 1 ∧ s.global a = some v ∧
        -1 ≤ s.sp ∧ s.sp < s.cfg.stackCapacity - 1 ∧
        t = { s with sp := s.sp + 1, stack := s.stack.write (s.sp + 1).toNat v } := by
  unfold loadGlobal globalAddress
  simp only [bind_ok, readGlobal_ok, push_ok, and_assoc]

theorem storeFrame_ok (o : Int) (s t : State) :
    storeFrame o s = .ok t ↔
      ∃ v, 0 ≤ s.fp + o ∧ s.fp + o ≤ s.sp - 1 ∧ s.sp ≤ s.cfg.stackCapacity - 1 ∧ s.slot s.sp = some v ∧
        t = { s with sp := s.sp - 1, stack := s.stack.write (s.fp + o).toNat v } := by
  unfold storeFrame
  simp only [bind_ok, Prod.exists, pop_ok, writeFrame_ok]
  constructor
  · rintro ⟨v, s₁, ⟨h1, h2, h3, rfl⟩, h4, h5, h6, rfl⟩; exact ⟨v, h4, h5, h2, h3, rfl⟩
  · rintro ⟨v, h1, h2, h3, h4, rfl⟩
    exact ⟨v, _, ⟨by omega, h3, h4, rfl⟩, h1, h2, by simp; omega, rfl⟩

theorem storeGlobal_ok (a : Int) (s t : State) :
    storeGlobal a s = .ok t ↔
      ∃ v, 0 ≤ s.sp ∧ s.sp ≤ s.cfg.stackCapacity - 1 ∧ s.slot s.sp = some v ∧
        0 ≤ a ∧ a ≤ s.cfg.globalsSize - 1 ∧
        t = { s with sp := s.sp - 1, globals := s.globals.write a.toNat v } := by
  unfold storeGlobal globalAddress
  simp only [bind_ok, Prod.exists, pop_ok, writeGlobal_ok]
  constructor
  · rintro ⟨v, s₁, ⟨h1, h2, h3, rfl⟩, h4, h5, rfl⟩; exact ⟨v, h1, h2, h3, h4, h5, rfl⟩
  · rintro ⟨v, h1, h2, h3, h4, h5, rfl⟩
    exact ⟨v, _, ⟨h1, h2, h3, rfl⟩, h4, h5, rfl⟩

theorem output_ok (s t : State) :
    output s = .ok t ↔
      ∃ v, 0 ≤ s.sp ∧ s.sp ≤ s.cfg.stackCapacity - 1 ∧ s.slot s.sp = some v ∧
        t = { s with sp := s.sp - 1, out := s.out ++ [v] } := by
  unfold output
  simp only [bind_ok, Prod.exists, pop_ok, Except.ok.injEq]
  constructor
  · rintro ⟨v, s₁, ⟨h1, h2, h3, rfl⟩, rfl⟩; exact ⟨v, h1, h2, h3, rfl⟩
  · rintro ⟨v, h1, h2, h3, rfl⟩; exact ⟨v, _, ⟨h1, h2, h3, rfl⟩, rfl⟩

theorem discard_ok (s t : State) :
    discard s = .ok t ↔
      (∃ v, 0 ≤ s.sp ∧ s.sp ≤ s.cfg.stackCapacity - 1 ∧ s.slot s.sp = some v) ∧
        t = { s with sp := s.sp - 1 } := by
  unfold discard
  simp only [bind_ok, Prod.exists, pop_ok, Except.ok.injEq]
  constructor
  · rintro ⟨v, s₁, ⟨h1, h2, h3, rfl⟩, rfl⟩; exact ⟨⟨v, h1, h2, h3⟩, rfl⟩
  · rintro ⟨⟨v, h1, h2, h3⟩, rfl⟩; exact ⟨v, _, ⟨h1, h2, h3, rfl⟩, rfl⟩

theorem restoreSp_ok (s t : State) :
    restoreSp s = .ok t ↔ 0 ≤ s.fp ∧ s.fp ≤ s.cfg.stackCapacity - 1 ∧ t = { s with sp := s.fp } := by
  unfold restoreSp
  split
  · simp; omega
  · simp only [Except.ok.injEq]
    constructor
    · intro e; exact ⟨by omega, by omega, e.symm⟩
    · rintro ⟨-, -, e⟩; exact e.symm

theorem restoreSp_error (c : Fatal) (s : State) :
    restoreSp s = .error c ↔
      (s.fp < 0 ∨ s.fp > s.cfg.stackCapacity - 1) ∧ c = .outOfBounds .fpRestore s.fp := by
  unfold restoreSp
  split <;> simp_all [eq_comm]

theorem discardArgs_ok (n : Int) (s t : State) :
    discardArgs n s = .ok t ↔ 0 ≤ n ∧ n ≤ s.sp + 1 ∧ t = { s with sp := s.sp - n } := by
  unfold discardArgs
  split
  · simp; omega
  · simp only [Except.ok.injEq]
    constructor
    · intro e; exact ⟨by omega, by omega, e.symm⟩
    · rintro ⟨-, -, e⟩; exact e.symm

theorem discardArgs_error (n : Int) (c : Fatal) (s : State) :
    discardArgs n s = .error c ↔ (n < 0 ∨ n > s.sp + 1) ∧ c = .outOfBounds .argDiscard (s.sp - n) := by
  unfold discardArgs
  split <;> simp_all [eq_comm]

theorem callFrame_ok (target n : Int) (s t : State) :
    callFrame target n s = .ok t ↔
      -1 ≤ s.sp ∧ s.sp ≤ s.cfg.stackCapacity - 4 ∧
        t = { s with
          sp := s.sp + 3
          fp := s.sp + 3
          ip := target
          stack := ((s.stack.write (s.sp + 1).toNat n).write (s.sp + 2).toNat s.fp).write
            (s.sp + 3).toNat s.ip } := by
  have e2 : s.sp + 1 + 1 = s.sp + 2 := by omega
  have e3 : s.sp + 2 + 1 = s.sp + 3 := by omega
  unfold callFrame
  simp only [bind_ok, push_ok]
  constructor
  · rintro ⟨_, ⟨h1, h2, rfl⟩, _, ⟨h3, h4, rfl⟩, _, ⟨h5, h6, rfl⟩, h⟩
    simp only [e2, e3, Except.ok.injEq] at h6 h
    exact ⟨h1, by omega, h.symm⟩
  · rintro ⟨h1, h2, rfl⟩
    refine ⟨_, ⟨h1, by omega, rfl⟩, _, ⟨by simp; omega, by simp; omega, rfl⟩, _, ⟨by simp; omega, by simp; omega, rfl⟩, ?_⟩
    simp only [e2, e3]

theorem returnFrame_ok (s t : State) :
    returnFrame s = .ok t ↔
      ∃ rv r f n, 0 ≤ s.sp ∧ s.sp ≤ s.cfg.stackCapacity - 1 ∧ s.slot s.sp = some rv ∧
        2 ≤ s.fp ∧ s.fp ≤ s.cfg.stackCapacity - 1 ∧ s.slot s.fp = some r ∧ s.slot (s.fp - 1) = some f ∧
        s.slot (s.fp - 2) = some n ∧ 0 ≤ n ∧ n ≤ s.fp - 2 ∧
        t = { s with
          sp := s.fp - 2 - n
          fp := f
          ip := r
          stack := s.stack.write (s.fp - 2 - n).toNat rv } := by
  have e2 : s.fp - 1 - 1 = s.fp - 2 := by omega
  have e3 : s.fp - 2 - 1 = s.fp - 3 := by omega
  unfold returnFrame
  simp only [bind_ok, Prod.exists, pop_ok, restoreSp_ok, discardArgs_ok, push_ok, Except.ok.injEq]
  constructor
  · rintro ⟨rv, _, ⟨h1, h2, h3, rfl⟩, _, ⟨h4, h5, rfl⟩, r, _, ⟨-, -, h6, rfl⟩, f, _, ⟨h7, -, h8, rfl⟩,
      n, _, ⟨h9, -, h10, rfl⟩, _, ⟨h11, h12, rfl⟩, _, ⟨h13, h14, rfl⟩, rfl⟩
    simp only [e2, e3, slot_mk] at *
    refine ⟨rv, r, f, n, h1, h2, h3, by omega, h5, h6, h8, h10, h11, by omega, ?_⟩
    have e : s.fp - 3 - n + 1 = s.fp - 2 - n := by omega
    simp only [e]
  · rintro ⟨rv, r, f, n, h1, h2, h3, h4, h5, h6, h7, h8, h9, h10, rfl⟩
    refine ⟨rv, _, ⟨h1, h2, h3, rfl⟩, _, ⟨by simp; omega, h5, rfl⟩, r, _, ⟨by simp; omega, h5, h6, rfl⟩,
      f, _, ⟨by simp; omega, by simp; omega, h7, rfl⟩, n, _, ⟨by simp; omega, by simp; omega, ?_, rfl⟩,
      _, ⟨h9, by simp; omega, rfl⟩, _, ⟨by simp; omega, by simp; omega, rfl⟩, ?_⟩
    · simp only [e2, slot_mk]; exact h8
    · have e : s.fp - 3 - n + 1 = s.fp - 2 - n := by omega
      simp only [e2, e3, e]

/-! ### The frame of an execute rule -/

/-- `perform` always answers a next state: the rule's result, or the condition it raised, taken from the state at
the start of the step. -/
theorem perform_next (i : Instr) (rule : State → Except Fatal State) (s t : State) :
    perform i rule s = .next t ↔
      rule (advance i s) = .ok t ∨
      ∃ c, rule (advance i s) = .error c ∧ t = takeFatal (some (s.cfg.opcodes.number i.opcode)) c s := by
  unfold perform
  cases rule (advance i s) <;> simp [eq_comm]

theorem perform_of_ok {i : Instr} {rule : State → Except Fatal State} {s t : State}
    (h : rule (advance i s) = .ok t) : perform i rule s = .next t := (perform_next ..).2 (.inl h)

theorem perform_of_error {i : Instr} {rule : State → Except Fatal State} {s : State} {c : Fatal}
    (h : rule (advance i s) = .error c) :
    perform i rule s = .next (takeFatal (some (s.cfg.opcodes.number i.opcode)) c s) :=
  (perform_next ..).2 (.inr ⟨c, h, rfl⟩)

/-- The execute rule of each instruction whose opcode is at address `a`; INVALID has none (R72). -/
def ruleOf (a : Int) : Instr → State → Except Fatal State
  | .invalid => .ok
  | .iadd => arithmetic fun a b => a + b
  | .isub => arithmetic fun a b => a - b
  | .imul => arithmetic fun a b => a * b
  | .ilt => comparison fun a b => decide (a < b)
  | .ieq => comparison fun a b => decide (a = b)
  | .br target => fun s => .ok (jump target s)
  | .brt target => branchOn 1 target
  | .brf target => branchOn 0 target
  | .iconst literal => push literal
  | .load offset => loadFrame offset
  | .gload addr => loadGlobal addr
  | .store offset => storeFrame offset
  | .gstore addr => storeGlobal addr
  | .puts => output
  | .pop => discard
  | .call target n => callFrame target n
  | .ret => returnFrame
  | .halt => fun s => .ok (haltRun .haltInstr a s)

/-- Every instruction but INVALID performs its execute rule. -/
theorem exec_eq_perform (i : Instr) (s : State) (h : i ≠ .invalid) :
    exec i s = perform i (ruleOf s.ip i) s := by
  cases i <;> first | rfl | exact absurd rfl h

end Sys2Proof.Machine
end

