-- ==== Sys2Proof/Laws/PerInstr.lean ====
section
/-! SUPPORT. Statements about every instruction as syntax, one lemma a constructor. -/

namespace Sys2Proof.Laws.EncodeLength

/-- The encoding has as many cells as the instruction is long, `1 + arity` (spec/30_encoding.md R60, R62). -/
def Statement (i : Instr) : Prop := ∀ m, (encode m i).length = i.length

theorem invalid : Statement .invalid := fun _ => rfl
theorem iadd : Statement .iadd := fun _ => rfl
theorem isub : Statement .isub := fun _ => rfl
theorem imul : Statement .imul := fun _ => rfl
theorem ilt : Statement .ilt := fun _ => rfl
theorem ieq : Statement .ieq := fun _ => rfl
theorem br (target : Int) : Statement (.br target) := fun _ => rfl
theorem brt (target : Int) : Statement (.brt target) := fun _ => rfl
theorem brf (target : Int) : Statement (.brf target) := fun _ => rfl
theorem iconst (literal : Int) : Statement (.iconst literal) := fun _ => rfl
theorem load (offset : Int) : Statement (.load offset) := fun _ => rfl
theorem gload (addr : Int) : Statement (.gload addr) := fun _ => rfl
theorem store (offset : Int) : Statement (.store offset) := fun _ => rfl
theorem gstore (addr : Int) : Statement (.gstore addr) := fun _ => rfl
theorem puts : Statement .puts := fun _ => rfl
theorem pop : Statement .pop := fun _ => rfl
theorem call (target n : Int) : Statement (.call target n) := fun _ => rfl
theorem ret : Statement .ret := fun _ => rfl
theorem halt : Statement .halt := fun _ => rfl

end Sys2Proof.Laws.EncodeLength
end

