-- ==== Sys2Proof/Laws/Step.lean ====
section
/-! SUPPORT. What the fetch and a step can do, said once. -/

namespace Sys2Proof.Machine

/-- A step answers a next state only while RUNNING, and then by one of the four outcomes of the fetch. -/
theorem step_next (s t : State) :
    step s = .next t ↔
      s.status.state = .running ∧
      ((∃ i, fetch s = .instr i ∧ exec i s = .next t) ∨
        (fetch s = .endOfCode ∧ t = haltRun .endOfCode s.ip s) ∨
        (∃ op, fetch s = .unknown op ∧ t = takeUnknownOpcode op s) ∨
        (∃ op c, fetch s = .fatal op c ∧ t = takeFatal op c s)) := by
  unfold step
  cases hs : s.status.state <;> simp only [reduceCtorEq, false_and, true_and]
  cases hf : fetch s <;> simp [eq_comm]

/-- The fetch answers an instruction exactly where the cells at `ip` decode to it. -/
theorem fetch_instr (s : State) (i : Instr) :
    fetch s = .instr i ↔ 0 ≤ s.ip ∧ ∃ rest, decode s.cfg.opcodes (codeFrom s.ip s) = .ok (i, rest) := by
  unfold fetch
  split
  · simp; omega
  · have h0 : 0 ≤ s.ip := by omega
    rcases decode s.cfg.opcodes (codeFrom s.ip s) with (_ | _ | _) | ⟨j, rest⟩ <;> simp [h0]

/-- The decoder finds no opcode cell only where there is none. -/
theorem decode_noOpcodeCell (m : OpcodeMap) (cells : List Int) :
    decode m cells = .error .noOpcodeCell ↔ cells = [] := by
  cases cells with
  | nil => simp [decode]
  | cons op rest =>
    simp only [decode, reduceCtorEq, iff_false]
    cases m.find op with
    | none => simp
    | some o => cases o <;> (simp only [decodeOperands, decodeF1, decodeF2]; try split) <;> simp

/-- The fetch ends the run exactly at and past the end of code (R71). -/
theorem fetch_endOfCode (s : State) : fetch s = .endOfCode ↔ 0 ≤ s.ip ∧ s.cfg.len ≤ s.ip := by
  have key : codeFrom s.ip s = [] ↔ s.cfg.code.length ≤ s.ip.toNat := by simp [codeFrom]
  rw [← decode_noOpcodeCell s.cfg.opcodes] at key
  unfold fetch Config.len
  split
  · simp; omega
  · have h0 : 0 ≤ s.ip := by omega
    rcases h : decode s.cfg.opcodes (codeFrom s.ip s) with (_ | _ | _) | ⟨j, rest⟩ <;>
      rw [h] at key <;> simp at key ⊢ <;> omega

end Sys2Proof.Machine
end

