-- ==== Sys2Proof/Tests/Slice0.lean ====
section
/-! SUPPORT. The model's own tests: ill-formed terms, code words written out from spec/30_encoding.md R63, one-step
vectors from spec/95_test_vectors.md and the rules' examples, and a witness for the hypotheses of each statement. -/

namespace Sys2Proof.Tests

open Sys2Proof Sys2Proof.Machine

/-! ### Helpers -/

/-- A RUNNING machine whose live stack is `l`: 8 slots, 2 global cells, no code, `ip` 0 and `fp` 0. -/
def machine (cb : CellBits) (l : List Int) : State where
  cfg := { unloadedConfig with stackCapacity := 8, globalsSize := 2, cellBits := cb }
  ip := 0
  sp := l.length - 1
  fp := 0
  stack := l.zipIdx.map fun p => (p.2, p.1)
  globals := []
  status := Status.ofRunning
  out := []

/-- The same machine with code, at an address. -/
def running (code : List Int) (ip : Int) (l : List Int) : State :=
  { machine .unbounded l with cfg := { (machine .unbounded l).cfg with code := code }, ip := ip }

/-- The next state of an outcome. -/
def next : Host.Outcome State Fault Refusal → Option State
  | .next t => some t
  | .fault _ => none
  | .refused _ => none

/-- `sp`, `ip` and the top cell of the next state. -/
def top (o : Host.Outcome State Fault Refusal) : Option (Int × Int × Option Int) :=
  (next o).map fun t => (t.sp, t.ip, t.slot t.sp)

/-- `STATUS.error`, `access` and `address`, and `ip` and `sp`, of the next state. -/
def fatal (o : Host.Outcome State Fault Refusal) :
    Option (Option ErrorKind × Option Access × Option Int × Int × Int) :=
  (next o).map fun t => (t.status.error, t.status.access, t.status.address, t.ip, t.sp)

/-- The launch of a program with 8 slots and 2 global cells. -/
def launchOf (code : List Int) (startIp cap : Int) (cb : CellBits) : State :=
  State.launch
    { unloadedConfig with code := code, startIp := startIp, stackCapacity := cap, globalsSize := 2, cellBits := cb }

/-! ### Well-formedness: one ill-formed term for each check (128 and -129 are no cell values of 8 bits) -/

theorem test_wf_br : Instr.wellFormed (.bits 8) (.br 128) = false := by decide
theorem test_wf_brt : Instr.wellFormed (.bits 8) (.brt 128) = false := by decide
theorem test_wf_brf : Instr.wellFormed (.bits 8) (.brf 128) = false := by decide
theorem test_wf_iconst : Instr.wellFormed (.bits 8) (.iconst 128) = false := by decide
theorem test_wf_load : Instr.wellFormed (.bits 8) (.load 128) = false := by decide
theorem test_wf_gload : Instr.wellFormed (.bits 8) (.gload 128) = false := by decide
theorem test_wf_store : Instr.wellFormed (.bits 8) (.store 128) = false := by decide
theorem test_wf_gstore : Instr.wellFormed (.bits 8) (.gstore 128) = false := by decide
theorem test_wf_call_target : Instr.wellFormed (.bits 8) (.call 128 0) = false := by decide
theorem test_wf_call_count : Instr.wellFormed (.bits 8) (.call 0 (-129)) = false := by decide
theorem test_wf_accepts : Instr.wellFormed (.bits 8) (.call 127 (-128)) = true := by decide

/-! ### Decoding: the opcode numbers and cell formats of R62 and R63, written out -/

theorem test_decode_invalid : decode standardOpcodes [0, 7] = .ok (.invalid, [7]) := by rfl
theorem test_decode_iadd : decode standardOpcodes [1] = .ok (.iadd, []) := by rfl
theorem test_decode_isub : decode standardOpcodes [2] = .ok (.isub, []) := by rfl
theorem test_decode_imul : decode standardOpcodes [3] = .ok (.imul, []) := by rfl
theorem test_decode_ilt : decode standardOpcodes [4] = .ok (.ilt, []) := by rfl
theorem test_decode_ieq : decode standardOpcodes [5, 5] = .ok (.ieq, [5]) := by rfl
theorem test_decode_br : decode standardOpcodes [6, -1] = .ok (.br (-1), []) := by rfl
theorem test_decode_brt : decode standardOpcodes [7, 10, 3] = .ok (.brt 10, [3]) := by rfl
theorem test_decode_brf : decode standardOpcodes [8, 24] = .ok (.brf 24, []) := by rfl
theorem test_decode_iconst : decode standardOpcodes [9, 9223372036854775808] = .ok (.iconst 9223372036854775808, []) := by rfl
theorem test_decode_load : decode standardOpcodes [10, -3, 9] = .ok (.load (-3), [9]) := by rfl
theorem test_decode_gload : decode standardOpcodes [11, 0] = .ok (.gload 0, []) := by rfl
theorem test_decode_store : decode standardOpcodes [12, -1] = .ok (.store (-1), []) := by rfl
theorem test_decode_gstore : decode standardOpcodes [13, 1, 18] = .ok (.gstore 1, [18]) := by rfl
theorem test_decode_puts : decode standardOpcodes [14] = .ok (.puts, []) := by rfl
theorem test_decode_pop : decode standardOpcodes [15] = .ok (.pop, []) := by rfl
theorem test_decode_call : decode standardOpcodes [16, 9, 2, 14] = .ok (.call 9 2, [14]) := by rfl
theorem test_decode_ret : decode standardOpcodes [17] = .ok (.ret, []) := by rfl
theorem test_decode_halt : decode standardOpcodes [18] = .ok (.halt, []) := by rfl
theorem test_decode_unknown : decode standardOpcodes [19, 1] = .error (.unknownOpcode 19) := by rfl
theorem test_decode_negative : decode standardOpcodes [-4] = .error (.unknownOpcode (-4)) := by rfl
theorem test_decode_truncated : decode standardOpcodes [16, 0] = .error (.truncated 16 2) := by rfl
theorem test_decodeTableWord : decodeTableWord 8 16 = some (.call 0 0) := by decide
theorem test_decodeTableWord_unknown : decodeTableWord 8 19 = none := by decide

/-! ### One step of each instruction (vector names of spec/95_test_vectors.md in brackets) -/

/-- [A1] -/
theorem test_iadd : top (exec .iadd (machine .unbounded [14, 20])) = some (0, 1, some 34) := by decide
/-- [A16] -/
theorem test_iadd_overflow :
    fatal (exec .iadd (machine (.bits 8) [127, 1])) = some (some .overflow, some .arith, none, 0, 1) := by decide
/-- [A3] -/
theorem test_isub : top (exec .isub (machine .unbounded [14, 20])) = some (0, 1, some (-6)) := by decide
/-- [A18] -/
theorem test_isub_overflow :
    fatal (exec .isub (machine (.bits 8) [-128, 1])) = some (some .overflow, some .arith, none, 0, 1) := by decide
/-- [A4] -/
theorem test_imul : top (exec .imul (machine .unbounded [-3, 4])) = some (0, 1, some (-12)) := by decide
/-- [A19] -/
theorem test_imul_overflow :
    fatal (exec .imul (machine (.bits 8) [-128, -1])) = some (some .overflow, some .arith, none, 0, 1) := by decide
/-- [A11] -/
theorem test_ilt : top (exec .ilt (machine .unbounded [-1, 0])) = some (0, 1, some 1) := by decide
/-- [A10] -/
theorem test_ilt_strict : top (exec .ilt (machine .unbounded [3, 3])) = some (0, 1, some 0) := by decide
/-- [A12] -/
theorem test_ieq : top (exec .ieq (machine .unbounded [7, 7])) = some (0, 1, some 1) := by decide
/-- [A13] -/
theorem test_ieq_differs : top (exec .ieq (machine .unbounded [-5, 5])) = some (0, 1, some 0) := by decide
/-- The example of R110. -/
theorem test_br : top (exec (.br 8) (running [] 22 [3])) = some (0, 8, some 3) := by decide
/-- [B9] -/
theorem test_br_negative : top (exec (.br (-1)) (running [] 0 [])) = some (-1, -1, none) := by decide
/-- The example of R111. -/
theorem test_brt : top (exec (.brt 10) (running [] 5 [1])) = some (-1, 10, none) := by decide
/-- The example of R111: only 1 branches. -/
theorem test_brt_two : top (exec (.brt 10) (running [] 5 [2])) = some (-1, 7, none) := by decide
/-- The example of R112. -/
theorem test_brf : top (exec (.brf 24) (running [] 13 [0])) = some (-1, 24, none) := by decide
/-- [B7]: only 0 branches. -/
theorem test_brf_negative : top (exec (.brf 24) (running [] 13 [-1])) = some (-1, 15, none) := by decide
/-- [E1] -/
theorem test_iconst : top (exec (.iconst 2) (running [] 2 [1])) = some (1, 4, some 2) := by decide
/-- [D2] -/
theorem test_iconst_full :
    fatal (exec (.iconst 2) (machine .unbounded [1, 2, 3, 4, 5, 6, 7, 8])) =
      some (some .outOfBoundsAccess, some .stackPush, some 8, 0, 7) := by decide
/-- [D10] -/
theorem test_load : top (exec (.load 1) (machine .unbounded [10, 20])) = some (2, 2, some 20) := by decide
/-- [D11] -/
theorem test_load_above :
    fatal (exec (.load 2) (machine .unbounded [10, 20])) =
      some (some .outOfBoundsAccess, some .frameRead, some 2, 0, 1) := by decide
/-- [D3] -/
theorem test_gload_unwritten :
    fatal (exec (.gload 0) (machine .unbounded [])) =
      some (some .uninitializedRead, some .globalRead, some 0, 0, -1) := by decide
/-- [D5] -/
theorem test_gload_negative :
    fatal (exec (.gload (-1)) (machine .unbounded [])) =
      some (some .outOfBoundsAccess, some .globalRead, some (-1), 0, -1) := by decide
/-- [D8] -/
theorem test_store :
    (next (exec (.store 0) (machine .unbounded [10, 20, 30]))).map (fun t => (t.sp, t.slot 0, t.slot 1)) =
      some (1, some 30, some 20) := by decide
/-- [D9]: the slot just popped is outside the live stack. -/
theorem test_store_popped :
    fatal (exec (.store 1) (machine .unbounded [10, 20])) =
      some (some .outOfBoundsAccess, some .frameWrite, some 1, 0, 1) := by decide
/-- The example of R124. -/
theorem test_gstore :
    (next (exec (.gstore 0) (machine .unbounded [99]))).map (fun t => (t.sp, t.global 0, t.global 1)) =
      some (-1, some 99, none) := by decide
/-- [D6], with two global cells. -/
theorem test_gstore_above :
    fatal (exec (.gstore 2) (machine .unbounded [7])) =
      some (some .outOfBoundsAccess, some .globalWrite, some 2, 0, 0) := by decide
/-- [E4] -/
theorem test_puts : (next (exec .puts (machine .unbounded [99]))).map (fun t => (t.sp, t.out)) = some (-1, [99]) := by
  decide
/-- The example of R126. -/
theorem test_pop : top (exec .pop (machine .unbounded [4, 5])) = some (0, 1, some 4) := by decide
/-- R49: underflow. -/
theorem test_pop_empty :
    fatal (exec .pop (machine .unbounded [])) =
      some (some .outOfBoundsAccess, some .stackPop, some (-1), 0, -1) := by decide
/-- The example of R140. -/
theorem test_call :
    (next (exec (.call 0 1) (running [] 24 [5]))).map (fun t => (t.ip, t.sp, t.fp, t.stack)) =
      some (0, 3, 3, [(0, 5), (1, 1), (2, 0), (3, 27)]) := by decide
/-- R140: two free slots are too few, and nothing is pushed. -/
theorem test_call_full :
    fatal (exec (.call 0 0) (machine .unbounded [1, 2, 3, 4, 5, 6])) =
      some (some .outOfBoundsAccess, some .stackPush, some 8, 0, 5) := by decide
/-- The example of R141. -/
theorem test_ret :
    (next (exec .ret { machine .unbounded [5, 1, 0, 27, 120] with fp := 3 })).map
        (fun t => (t.ip, t.sp, t.fp, t.slot 0)) = some (27, 0, 0, some 120) := by decide
/-- A corner case of R141: a RET with no CALL before it. -/
theorem test_ret_without_call :
    fatal (exec .ret (machine .unbounded [9])) =
      some (some .outOfBoundsAccess, some .stackPop, some (-1), 0, 0) := by decide
/-- [E1] -/
theorem test_halt :
    (next (exec .halt (running [] 4 [1, 2]))).map (fun t => (t.status.state, t.status.atIp, t.ip)) =
      some (.halted, some 4, 5) := by decide
/-- [X1] -/
theorem test_invalid :
    (next (step (running [0] 0 []))).map (fun t => (t.status.state, t.status.opcodeValue, t.status.atIp, t.ip)) =
      some (.invalid, some 0, some 0, 0) := by decide

/-! ### Fetch, launch and output -/

/-- [X4], its second step. -/
theorem test_step_unknown :
    (next (step (running [9, 5, 99] 2 [5]))).map (fun t => (t.status.opcodeValue, t.status.atIp, t.slot 0)) =
      some (some 99, some 2, some 5) := by decide
/-- [X6] -/
theorem test_step_truncated :
    fatal (step (running [16, 0] 0 [])) = some (some .outOfBoundsAccess, some .codeFetch, some 2, 0, -1) := by decide
/-- [B10] -/
theorem test_step_end_of_code :
    (next (step (running [6, 100] 100 []))).map (fun t => (t.status.haltCause, t.status.atIp, t.ip)) =
      some (some .endOfCode, some 100, 100) := by decide
/-- [B12]: a jump into an operand cell. -/
theorem test_step_mid_instruction :
    (next (step (running [9, 18, 6, 1] 1 [18]))).map (fun t => (t.status.haltCause, t.ip)) =
      some (some .haltInstr, 2) := by decide
/-- [X8] to [X12]. -/
theorem test_launch_malformed :
    (launchOf [] 0 8 .unbounded).status.state = .malformed ∧ (launchOf [18] 1 8 .unbounded).status.state = .malformed ∧
    (launchOf [18] (-1) 8 .unbounded).status.state = .malformed ∧
    (launchOf [18] 0 0 .unbounded).status.state = .malformed ∧
    (launchOf [9, 300, 18] 0 8 (.bits 8)).status.state = .malformed := by decide
theorem test_launch_running : (launchOf [9, 127, 18] 2 1 (.bits 8)).status = Status.ofRunning := by decide
/-- A table entry placed at reset runs as the first instruction: CALL with operands 0. -/
theorem test_withFetchWord :
    (next (step (State.reset.withFetchWord 8 16))).map (fun t => (t.ip, t.sp, t.fp, t.slot 2)) =
      some (0, 2, 2, some 3) := by decide
/-- R180. -/
theorem test_renderOutput : renderOutput [99, -10] = "OUTPUT: 99\nOUTPUT: -10\n".toList := by decide
/-- R75: out of fuel is no end. -/
theorem test_runFuel : runFuel 1 (running [6, 0] 0 []) = .outOfFuel (running [6, 0] 0 []) := by decide

/-! ### Witnesses: states that meet the hypotheses of each statement, clause by clause -/

/-- An empty stack; one written cell; a top that was never written; a written top over an unwritten cell. -/
def empty : State := machine .unbounded []
def one : State := machine .unbounded [1]
def two : State := machine .unbounded [1, 2]
def bare : State := { empty with sp := 0 }
def gap : State := { empty with sp := 1, stack := [(1, 2)] }
def full : State := machine .unbounded [1, 2, 3, 4, 5, 6, 7, 8]

/-- The clauses of `FaultsOnPop`. -/
theorem witness_FaultsOnPop :
    (SpInRange empty ∧ empty.sp = -1) ∧ (SpInRange bare ∧ 0 ≤ bare.sp ∧ bare.slot bare.sp = none) := by
  simp only [SpInRange]; decide

/-- The clauses of `FaultsOnTwoPops` beside those of `FaultsOnPop`. -/
theorem witness_FaultsOnTwoPops :
    (SpInRange one ∧ one.sp = 0 ∧ one.slot 0 ≠ none) ∧
    (SpInRange gap ∧ 1 ≤ gap.sp ∧ gap.slot gap.sp ≠ none ∧ gap.slot (gap.sp - 1) = none) := by
  simp only [SpInRange]; decide

/-- The hypotheses of `FaultsWhenTruncated`: BR without its operand, and CALL without its first and its second. -/
theorem witness_FaultsWhenTruncated :
    standardOpcodes.wf ∧
    ∀ c ∈ [([6], Opcode.br, 1), ([7], .brt, 1), ([8], .brf, 1), ([9], .iconst, 1), ([16], .call, 1), ([16, 0], .call, 2)],
      let s := running c.1 0 []
      s.cfg.opcodes = standardOpcodes ∧ s.status.state = .running ∧ 0 ≤ s.ip ∧
      s.cfg.code[s.ip.toNat]? = some (s.cfg.opcodes.number c.2.1) ∧
      1 ≤ c.2.2 ∧ c.2.2 ≤ c.2.1.arity ∧ s.cfg.len = s.ip + (c.2.2 : Nat) := by decide

theorem witness_DecodeOfEncodeIsTheInstruction :
    standardOpcodes.wf := by decide

theorem witness_DecodedCellsAreTheEncoding :
    decode standardOpcodes [16, 9, 2, 14] = .ok (.call 9 2, [14]) := by rfl

theorem witness_StepRunsTheDecodedInstruction :
    let s := running [18, 10, -3] 1 []
    s.status.state = .running ∧ 0 ≤ s.ip ∧
    decode s.cfg.opcodes (codeFrom s.ip s) = .ok (.load (-3), []) ∧
    Instr.wellFormed s.cfg.cellBits (.load (-3)) = true := ⟨rfl, by decide, rfl, rfl⟩

theorem witness_OpcodeFetchByAddress :
    (running [18] (-1) []).status.state = .running ∧ (running [18] (-1) []).ip < 0 ∧
    (running [18] 1 []).cfg.len ≤ (running [18] 1 []).ip ∧
    0 ≤ (running [18] 0 []).ip ∧ (running [18] 0 []).cfg.code[(0 : Int).toNat]? = some 18 := by decide

theorem witness_UnknownOpcodeEndsTheRun :
    (running [0, 19] 0 []).status.state = .running ∧ (running [0, 19] 0 []).cfg.code[(0 : Int).toNat]? = some 0 ∧
    standardOpcodes.find 0 = some .invalid ∧
    (running [0, 19] 1 []).cfg.code[(1 : Int).toNat]? = some 19 ∧ standardOpcodes.find 19 = none := by decide

/-- All operand cells; no first; no second. -/
theorem witness_OperandFetchReadsTheCellsOrFaults :
    ∀ c ∈ [([16, 5, 6], true, 0), ([16], false, 1), ([16, 5], false, 2)],
      let s := running c.1 0 []
      s.status.state = .running ∧ 0 ≤ s.ip ∧ s.cfg.code[s.ip.toNat]? = some 16 ∧
      s.cfg.opcodes.find 16 = some .call ∧
      (if c.2.1 then s.ip + Opcode.call.arity < s.cfg.len
       else 1 ≤ c.2.2 ∧ c.2.2 ≤ Opcode.call.arity ∧ s.cfg.len = s.ip + (c.2.2 : Nat)) := by decide

/-- The bounds of an 8-bit cell; the faults of the pops are in `witness_FaultsOnTwoPops`. -/
theorem witness_IaddPushesTheSum :
    (let s := machine (.bits 8) [126, 1]
     SpInRange s ∧ 1 ≤ s.sp ∧ s.slot s.sp = some 1 ∧ s.slot (s.sp - 1) = some 126 ∧
     inRange s.cfg.cellBits (126 + 1) = true) ∧
    (let s := machine (.bits 8) [127, 1]
     SpInRange s ∧ 1 ≤ s.sp ∧ s.slot s.sp = some 1 ∧ s.slot (s.sp - 1) = some 127 ∧
     inRange s.cfg.cellBits (127 + 1) = false) := by
  simp only [SpInRange]; decide

theorem witness_IsubPushesTheDifference :
    (let s := machine (.bits 8) [-127, 1]
     SpInRange s ∧ 1 ≤ s.sp ∧ s.slot s.sp = some 1 ∧ s.slot (s.sp - 1) = some (-127) ∧
     inRange s.cfg.cellBits (-127 - 1) = true) ∧
    (let s := machine (.bits 8) [-128, 1]
     SpInRange s ∧ 1 ≤ s.sp ∧ s.slot s.sp = some 1 ∧ s.slot (s.sp - 1) = some (-128) ∧
     inRange s.cfg.cellBits (-128 - 1) = false) := by
  simp only [SpInRange]; decide

theorem witness_ImulPushesTheProduct :
    (let s := machine (.bits 8) [-128, 1]
     SpInRange s ∧ 1 ≤ s.sp ∧ s.slot s.sp = some 1 ∧ s.slot (s.sp - 1) = some (-128) ∧
     inRange s.cfg.cellBits (-128 * 1) = true) ∧
    (let s := machine (.bits 8) [-128, -1]
     SpInRange s ∧ 1 ≤ s.sp ∧ s.slot s.sp = some (-1) ∧ s.slot (s.sp - 1) = some (-128) ∧
     inRange s.cfg.cellBits (-128 * (-1)) = false) := by
  simp only [SpInRange]; decide

theorem witness_IltPushesOneOrZero :
    SpInRange two ∧ 1 ≤ two.sp ∧ two.slot two.sp = some 2 ∧ two.slot (two.sp - 1) = some 1 := by
  simp only [SpInRange]; decide

theorem witness_IeqPushesOneOrZero :
    SpInRange two ∧ 1 ≤ two.sp ∧ two.slot two.sp = some 2 ∧ two.slot (two.sp - 1) = some 1 := by
  simp only [SpInRange]; decide

theorem witness_BrtBranchesOnOneOnly :
    SpInRange one ∧ 0 ≤ one.sp ∧ one.slot one.sp = some 1 := by
  simp only [SpInRange]; decide

theorem witness_BrfBranchesOnZeroOnly :
    SpInRange one ∧ 0 ≤ one.sp ∧ one.slot one.sp = some 1 := by
  simp only [SpInRange]; decide

/-- Seven cells: one slot is free. -/
def almost : State := machine .unbounded [1, 2, 3, 4, 5, 6, 7]

theorem witness_IconstPushesTheLiteral :
    (SpInRange almost ∧ almost.sp < almost.cfg.stackCapacity - 1) ∧
    (SpInRange full ∧ full.sp = full.cfg.stackCapacity - 1) := by
  simp only [SpInRange]; decide

theorem witness_LoadPushesTheFrameSlot :
    (SpInRange almost ∧ 0 ≤ frameAddress 6 almost ∧ frameAddress 6 almost ≤ almost.sp ∧
      almost.slot (frameAddress 6 almost) = some 7 ∧ almost.sp < almost.cfg.stackCapacity - 1) ∧
    (frameAddress (-1) two < 0 ∧ two.sp < frameAddress 2 two) ∧
    (SpInRange bare ∧ 0 ≤ frameAddress 0 bare ∧ frameAddress 0 bare ≤ bare.sp ∧
      bare.slot (frameAddress 0 bare) = none) ∧
    (SpInRange full ∧ 0 ≤ frameAddress 0 full ∧ frameAddress 0 full ≤ full.sp ∧
      full.slot (frameAddress 0 full) ≠ none ∧ full.sp = full.cfg.stackCapacity - 1) := by
  simp only [SpInRange]; decide

/-- Global 1 holds 7. -/
def stored (s : State) : State := { s with globals := [(1, 7)] }

theorem witness_GloadPushesTheGlobal :
    (let s := stored almost
     SpInRange s ∧ 1 ≤ s.cfg.globalsSize - 1 ∧ s.global 1 = some 7 ∧ s.sp < s.cfg.stackCapacity - 1) ∧
    (SpInRange two ∧ two.cfg.globalsSize - 1 < 2) ∧
    (SpInRange two ∧ 0 ≤ two.cfg.globalsSize - 1 ∧ two.global 0 = none) ∧
    (let s := stored full
     SpInRange s ∧ s.global 1 ≠ none ∧ s.sp = s.cfg.stackCapacity - 1) := by
  simp only [SpInRange]; decide

theorem witness_StoreWritesTheFrameSlot :
    (SpInRange two ∧ 0 ≤ two.sp ∧ two.slot two.sp = some 2 ∧ 0 ≤ frameAddress 0 two ∧
      frameAddress 0 two ≤ two.sp - 1) ∧
    (two.slot two.sp ≠ none ∧ frameAddress (-1) two < 0 ∧ two.sp - 1 < frameAddress 1 two) := by
  simp only [SpInRange]; decide

theorem witness_GstoreWritesTheGlobal :
    (SpInRange two ∧ 0 ≤ two.sp ∧ two.slot two.sp = some 2 ∧ 0 ≤ globalAddress 1 ∧
      globalAddress 1 ≤ two.cfg.globalsSize - 1) ∧
    (two.slot two.sp ≠ none ∧ two.cfg.globalsSize - 1 < 2) := by
  simp only [SpInRange]; decide

theorem witness_PutsAppendsToTheOutput :
    SpInRange one ∧ 0 ≤ one.sp ∧ one.slot one.sp = some 1 := by
  simp only [SpInRange]; decide

theorem witness_PopDiscardsTheTop :
    SpInRange one ∧ 0 ≤ one.sp ∧ one.slot one.sp = some 1 := by
  simp only [SpInRange]; decide

theorem witness_CallBuildsTheFrameHeader :
    (let s := machine .unbounded [1, 2, 3, 4, 5]
     SpInRange s ∧ s.sp ≤ s.cfg.stackCapacity - 4) ∧
    (let s := machine .unbounded [1, 2, 3, 4, 5, 6]
     SpInRange s ∧ s.cfg.stackCapacity - 4 < s.sp) := by
  simp only [SpInRange]; decide

/-- A callee's state: stack `l`, and `fp` as given. -/
def callee (fp : Int) (l : List Int) : State := { machine .unbounded l with fp := fp }

/-- The normal return, FP_RESTORE below and above, an unwritten return address, and the underflows at `fp` 0 and 1. -/
theorem witness_RetTearsDownTheFrame :
    (let s := callee 3 [5, 1, 0, 27, 120]
     SpInRange s ∧ 0 ≤ s.sp ∧ s.slot s.sp = some 120 ∧ 2 ≤ s.fp ∧ s.fp ≤ s.cfg.stackCapacity - 1 ∧
     s.slot s.fp = some 27 ∧ s.slot (s.fp - 1) = some 0 ∧ s.slot (s.fp - 2) = some 1 ∧ 1 ≤ s.fp - 2) ∧
    (let s := callee (-1) [9]
     SpInRange s ∧ 0 ≤ s.sp ∧ s.slot s.sp ≠ none ∧ s.fp < 0) ∧
    (let s := callee 8 [9]
     SpInRange s ∧ 0 ≤ s.sp ∧ s.slot s.sp ≠ none ∧ s.cfg.stackCapacity - 1 < s.fp) ∧
    (let s := callee 1 [9]
     SpInRange s ∧ 0 ≤ s.sp ∧ s.slot s.sp ≠ none ∧ 0 ≤ s.fp ∧ s.fp ≤ s.cfg.stackCapacity - 1 ∧ s.slot s.fp = none) ∧
    (let s := callee 0 [9]
     SpInRange s ∧ 0 ≤ s.sp ∧ s.slot s.sp ≠ none ∧ s.fp = 0 ∧ s.slot 0 ≠ none) ∧
    (let s := callee 1 [9, 9]
     SpInRange s ∧ 0 ≤ s.sp ∧ s.slot s.sp ≠ none ∧ s.fp = 1 ∧ s.slot 1 ≠ none ∧ s.slot 0 ≠ none) := by
  simp only [SpInRange]; decide

/-- An unwritten saved `fp`, an unwritten count, and a count below 0 and one above the cells there are. -/
theorem witness_RetTearsDownTheFrame_header :
    (let s := { callee 1 [] with sp := 1, stack := [(1, 9)] }
     SpInRange s ∧ 0 ≤ s.sp ∧ s.slot s.sp ≠ none ∧ 1 ≤ s.fp ∧ s.slot s.fp ≠ none ∧ s.slot (s.fp - 1) = none) ∧
    (let s := { callee 2 [] with sp := 2, stack := [(1, 9), (2, 9)] }
     SpInRange s ∧ 0 ≤ s.sp ∧ s.slot s.sp ≠ none ∧ 2 ≤ s.fp ∧ s.slot s.fp ≠ none ∧ s.slot (s.fp - 1) ≠ none ∧
     s.slot (s.fp - 2) = none) ∧
    (let s := callee 2 [-1, 0, 4, 9]
     SpInRange s ∧ 0 ≤ s.sp ∧ s.slot s.sp ≠ none ∧ 2 ≤ s.fp ∧ s.slot s.fp ≠ none ∧ s.slot (s.fp - 1) ≠ none ∧
     s.slot (s.fp - 2) = some (-1)) ∧
    (let s := callee 2 [1, 0, 4, 9]
     SpInRange s ∧ 0 ≤ s.sp ∧ s.slot s.sp ≠ none ∧ 2 ≤ s.fp ∧ s.slot s.fp ≠ none ∧ s.slot (s.fp - 1) ≠ none ∧
     s.slot (s.fp - 2) = some 1 ∧ s.fp - 2 < 1) := by
  simp only [SpInRange]; decide

/-! ### Witnesses of the invariants and of the rules of the whole machine -/

/-- An ICONST about to run with the stack `[1, 2]` and 8-bit cells. -/
def eight : State :=
  { machine (.bits 8) [1, 2] with cfg := { (machine (.bits 8) [1, 2]).cfg with code := [9, 5] }, globals := [(1, 7)] }

theorem eight_slot (a : Int) : eight.slot a = if a = 0 then some 1 else if a = 1 then some 2 else none := by
  unfold State.slot Memory.cell
  simp only [eight, machine, List.zipIdx_cons, List.zipIdx_nil, List.map_cons, List.map_nil, Memory.read]
  repeat' split
  all_goals first | rfl | omega

theorem eight_global (a : Int) : eight.global a = if a = 1 then some 7 else none := by
  unfold State.global Memory.cell
  simp only [eight, Memory.read]
  repeat' split
  all_goals first | rfl | omega

theorem witness_StepKeepsSpInRange :
    SpInRange eight ∧ (next (step eight)).isSome = true := by
  simp only [SpInRange]; decide

theorem witness_StepKeepsMemoriesCanonical :
    MemoriesCanonical eight ∧ (next (step eight)).isSome = true := by
  simp only [MemoriesCanonical]; decide

theorem witness_StepKeepsTheWrittenPrefix :
    WrittenPrefix eight := by
  refine ⟨fun a b h0 hab => ?_, fun _ => by decide⟩
  simp only [eight_slot]
  repeat' split
  all_goals first | simp; done | omega

theorem witness_StepKeepsStatusCoherent :
    eight.status.Coherent := rfl

theorem witness_StepKeepsValuesInRange :
    legalWidth eight.cfg.cellBits = true ∧ AddressesInRange eight ∧ ValuesInRange eight := by
  have h : ∀ v : Int, inRange (.bits 8) v = true ↔ -128 ≤ v ∧ v ≤ 127 := fun v => by simp [inRange]
  have e : eight.cfg.cellBits = .bits 8 := rfl
  refine ⟨rfl, ⟨by decide, fun a h1 h2 => ?_, fun a h1 h2 => ?_, by decide⟩, fun a v hv => ?_, fun a v hv => ?_⟩
  · have : eight.cfg.stackCapacity = 8 := rfl
    rw [e, h]; omega
  · have : eight.cfg.len = 2 := rfl
    rw [e, h]; omega
  · rw [eight_slot] at hv
    rw [e, h]
    split at hv
    · cases hv; omega
    · split at hv <;> cases hv; omega
  · rw [eight_global] at hv
    rw [e, h]
    split at hv <;> cases hv; omega

theorem witness_LaunchMeetsTheInvariants :
    launchOk (launchOf [18] 0 1 (.bits 2)).cfg = false ∧ launchOk (launchOf [18] 0 1 (.bits 8)).cfg = true := by decide

theorem witness_LaunchSetsTheResetValues :
    launchOk unloadedConfig = false ∧ launchOk (launchOf [9, 127, 18] 2 1 (.bits 8)).cfg = true := by decide

theorem witness_LaunchCheckRefusesExactly :
    (launchOf [18] 1 8 .unbounded).status.state = .malformed := by decide

theorem witness_PlacedTableEntryRunsNext :
    decodeTableWord 8 16 = some (.call 0 0) := by decide

theorem witness_TerminalStateHasNoStep :
    State.reset.status.state ≠ .running := by decide

theorem witness_RunningStateHasOneNextState :
    eight.status.state = .running := by decide

theorem witness_NoStepChangesTheConfiguration :
    (next (step eight)).isSome = true := by decide

theorem witness_NoInstructionReadsTheOutput :
    (next (step (running [14] 0 [5]))).map (fun t => t.out) = some [5] := by decide

theorem witness_StatusIsWrittenOnEndingOnly :
    (next (step (running [18] 0 []))).map (fun t => t.status.state) = some .halted := by decide

/-- An IADD about to overflow. -/
def overflowing : State :=
  { machine (.bits 8) [127, 1] with cfg := { (machine (.bits 8) [127, 1]).cfg with code := [1] } }

theorem witness_FatalConditionsArePrecise :
    (next (step (running [1] 0 []))).map (fun t => t.status.state) = some .fault ∧
    (next (step (running [19] 0 []))).map (fun t => t.status.state) = some .invalid := by decide

theorem witness_FatalConditionsRecordTheOpcodeCell :
    (next (step (running [1] (-1) []))).map (fun t => t.status.state) = some .fault ∧
    (next (step (running [1] 0 []))).map (fun t => t.status.state) = some .fault ∧
    (next (step (running [19] 0 []))).map (fun t => t.status.state) = some .invalid := by decide

theorem witness_InstructionsRaiseOnlyTheTable :
    empty.status.state = .running ∧ (next (exec .iadd empty)).map (fun t => t.status.state) = some .fault := by decide

theorem witness_OutOfBoundsRecordsTheAddress :
    SpInRange empty ∧ empty.status = Status.ofRunning ∧
    (next (exec .iadd empty)).map (fun t => t.status.error) = some (some .outOfBoundsAccess) := by
  simp only [SpInRange]; decide

theorem witness_UninitializedReadRecordsTheCell :
    SpInRange empty ∧ empty.status = Status.ofRunning ∧
    (next (exec (.gload 0) empty)).map (fun t => t.status.error) = some (some .uninitializedRead) ∧
    (next (exec .pop bare)).map (fun t => t.status.error) = some (some .uninitializedRead) ∧
    (next (exec (.load 0) bare)).map (fun t => t.status.error) = some (some .uninitializedRead) := by
  simp only [SpInRange]; decide

theorem witness_OverflowNeedsFiniteCells :
    overflowing.status = Status.ofRunning ∧
    (next (step overflowing)).map (fun t => t.status.error) = some (some .overflow) := by decide

theorem witness_OnlyRetReadsUnwrittenSlots :
    (let s := callee 1 [9]
     SpInRange s ∧ WrittenPrefix s ∧ s.status = Status.ofRunning ∧
     (next (exec .ret s)).map (fun t => t.status.error) = some (some .uninitializedRead)) := by
  refine ⟨⟨by decide, by decide⟩, ⟨fun a b h0 hab hb => ?_, fun _ => by decide⟩, rfl, by decide⟩
  have : b = 0 := by
    by_contra hn
    apply hb
    unfold State.slot Memory.cell
    simp only [callee, machine, List.zipIdx_cons, List.zipIdx_nil, List.map_cons, List.map_nil, Memory.read]
    repeat' split
    all_goals first | rfl | omega
  have : a = 0 := by omega
  subst this; decide

theorem witness_OnlyPutsChangesTheOutput :
    (next (step (running [14] 0 [5]))).map (fun t => t.out) = some [5] := by decide

theorem witness_OnlyGstoreChangesTheGlobals :
    (next (step (running [13, 1] 0 [5]))).map (fun t => t.global 1) = some (some 5) ∧
    (running [13, 1] 0 [5]).global 1 ≠ some 5 := by decide

theorem witness_OnlyCallAndRetChangeFp :
    (next (step (running [16, 9, 0] 0 [5]))).map (fun t => t.fp) = some 3 ∧
    (next (exec .ret (callee 3 [5, 1, 0, 27, 120]))).map (fun t => t.fp) = some 0 := by decide

theorem witness_SequentialInstructionsAdvanceIp :
    fetch eight = .instr (.iconst 5) ∧ (next (step eight)).map (fun t => t.status.state) = some .running ∧
    fetch (running [18] 0 []) = .instr .halt ∧
    (next (step (running [18] 0 []))).map (fun t => t.status.state) = some .halted := by decide

/-- A slot above `sp` differs. -/
theorem witness_DeadSlotsAreReadByRetOnly :
    (let s := two
     let m : Memory := [(0, 1), (1, 2), (5, 9)]
     ∀ a, a ≤ s.sp → m.cell a = s.slot a) ∧ (next (exec .iadd two)).isSome = true := by
  refine ⟨fun a ha => ?_, by decide⟩
  have ha : a ≤ 1 := ha
  unfold State.slot Memory.cell
  simp only [two, machine, List.zipIdx_cons, List.zipIdx_nil, List.map_cons, List.map_nil, Memory.read]
  repeat' split
  all_goals first | rfl | omega

theorem witness_CallLaysOutTheFrame :
    (SpInRange two ∧ two.sp ≤ two.cfg.stackCapacity - 4 ∧
      ∀ (j : Nat) (v : Int), [1, 2][j]? = some v → two.slot (two.sp - ([1, 2] : List Int).length + 1 + j) = some v) := by
  refine ⟨⟨by decide, by decide⟩, by decide, fun j v h => ?_⟩
  match j, h with
  | 0, h => cases h; decide
  | 1, h => cases h; decide

/-- The state right after the CALL meets the inner hypotheses: its top cell is the return address. -/
theorem witness_RetUndoesCall :
    (SpInRange one ∧ one.sp ≤ one.cfg.stackCapacity - 4 ∧ (1 : Int) ≤ one.sp + 1) ∧
    ∃ t, exec (.call 7 1) one = .next t ∧ t.cfg = one.cfg ∧ t.fp ≤ t.sp ∧ t.sp ≤ one.cfg.stackCapacity - 1 ∧
      t.slot t.sp = some 3 := ⟨⟨⟨by decide, by decide⟩, by decide, by decide⟩, _, rfl, rfl, by decide, by decide, by decide⟩

theorem witness_GloadReadsBackGstore :
    SpInRange one ∧ 0 ≤ one.sp ∧ one.slot one.sp = some 1 ∧ (1 : Int) ≤ one.cfg.globalsSize - 1 := by
  simp only [SpInRange]; decide

theorem witness_FuelIsNoStatus :
    runFuel 0 State.reset = .ended State.reset ∧ runFuel 0 eight = .outOfFuel eight := by decide

end Sys2Proof.Tests
end

section
/-! PROOF. What the execute stage can answer, and the configuration as a part of the state that no step writes
(spec/10_state.md R32, spec/20_memory.md R57). -/

namespace Sys2Proof.Machine

/-- What the execute stage can answer: INVALID ends the run at the decode (R72); every other instruction answers
its rule's result, or the condition its rule raised, taken from the state at the start of the step (R170). -/
theorem exec_next (i : Instr) (s t : State) :
    exec i s = .next t ↔
      (i = .invalid ∧ t = takeUnknownOpcode (s.cfg.opcodes.number .invalid) s) ∨
      (i ≠ .invalid ∧
        (ruleOf s.ip i (advance i s) = .ok t ∨
          ∃ c, ruleOf s.ip i (advance i s) = .error c ∧
            t = takeFatal (some (s.cfg.opcodes.number i.opcode)) c s)) := by
  by_cases hi : i = .invalid
  · subst hi
    simp [exec, execInvalid, eq_comm]
  · simp [exec_eq_perform i s hi, perform_next, hi]

/-- Every execute rule that completes writes `ip`, `sp`, `fp`, the memories, `STATUS` or `OUT`, never the
configuration. -/
theorem ruleOf_keeps_cfg {a : Int} {i : Instr} {s t : State} (h : ruleOf a i s = .ok t) : t.cfg = s.cfg := by
  cases i with
  | invalid => cases h; rfl
  | iadd | isub | imul =>
    rw [ruleOf, arithmetic_ok] at h
    obtain ⟨_, _, -, -, -, -, -, rfl⟩ := h; rfl
  | ilt | ieq =>
    rw [ruleOf, comparison_ok] at h
    obtain ⟨_, _, -, -, -, -, rfl⟩ := h; rfl
  | br target => cases h; rfl
  | brt target | brf target => obtain ⟨_, -, -, -, rfl⟩ := (branchOn_ok ..).1 h; rfl
  | iconst literal => obtain ⟨-, -, rfl⟩ := (push_ok ..).1 h; rfl
  | load offset => obtain ⟨_, -, -, -, -, rfl⟩ := (loadFrame_ok ..).1 h; rfl
  | gload addr => obtain ⟨_, -, -, -, -, -, rfl⟩ := (loadGlobal_ok ..).1 h; rfl
  | store offset => obtain ⟨_, -, -, -, -, rfl⟩ := (storeFrame_ok ..).1 h; rfl
  | gstore addr => obtain ⟨_, -, -, -, -, -, rfl⟩ := (storeGlobal_ok ..).1 h; rfl
  | puts => obtain ⟨_, -, -, -, rfl⟩ := (output_ok ..).1 h; rfl
  | pop => obtain ⟨-, rfl⟩ := (discard_ok ..).1 h; rfl
  | call target n => obtain ⟨-, -, rfl⟩ := (callFrame_ok ..).1 h; rfl
  | ret => obtain ⟨_, _, _, _, -, -, -, -, -, -, -, -, -, -, rfl⟩ := (returnFrame_ok ..).1 h; rfl
  | halt => cases h; rfl

theorem exec_keeps_cfg {i : Instr} {s t : State} (h : exec i s = .next t) : t.cfg = s.cfg := by
  rcases (exec_next ..).1 h with ⟨-, rfl⟩ | ⟨-, hrule | ⟨c, -, rfl⟩⟩
  · exact takeUnknownOpcode_cfg ..
  · exact (ruleOf_keeps_cfg hrule).trans (advance_cfg i s)
  · exact takeFatal_cfg ..

/-- Settles O41, by the outcome of the fetch: an instruction keeps the configuration, and each way the fetch ends
the run writes `STATUS` alone. -/
theorem noStepChangesTheConfiguration : Obligations.NoStepChangesTheConfiguration := by
  intro s t h
  obtain ⟨-, ⟨i, -, hexec⟩ | ⟨-, rfl⟩ | ⟨op, -, rfl⟩ | ⟨op, c, -, rfl⟩⟩ := (step_next s t).1 h
  · exact exec_keeps_cfg hexec
  · exact haltRun_cfg ..
  · exact takeUnknownOpcode_cfg ..
  · exact takeFatal_cfg ..

end Sys2Proof.Machine
end

section
/-! PROOF. What the decoder answers (spec/30_encoding.md R60 to R65, R73), and the opcode table of R63. -/

namespace Sys2Proof

/-- Under an injective numbering, a cell value is looked up as `o` exactly when it is the number of `o`. -/
theorem find_eq_some_iff {m : OpcodeMap} (hm : m.wf) (v : Int) (o : Opcode) :
    m.find v = some o ↔ m.number o = v :=
  ⟨number_of_find, fun h => h ▸ find_number hm o⟩

/-- Settles O3: R63's table lists each opcode with its number and its arity, and the numbering is injective. -/
theorem opcodeNumbersAreTheTable : Obligations.OpcodeNumbersAreTheTable := by
  intro v o k
  rw [find_eq_some_iff (by decide)]
  change _ ↔ (v, o, k) ∈ allOpcodes.map fun p => (standardOpcodes.number p, p, p.arity)
  simp [mem_allOpcodes]

/-! ### The operand fetch -/

theorem decodeF1_ok (op : Int) (mk : Int → Instr) (rest r : List Int) (i : Instr) :
    decodeF1 op mk rest = .ok (i, r) ↔ ∃ x, rest = x :: r ∧ i = mk x := by
  cases rest with
  | nil => simp [decodeF1]
  | cons x rest => simp [decodeF1, eq_comm, and_comm]

theorem decodeF2_ok (op : Int) (mk : Int → Int → Instr) (rest r : List Int) (i : Instr) :
    decodeF2 op mk rest = .ok (i, r) ↔ ∃ x y, rest = x :: y :: r ∧ i = mk x y := by
  match rest with
  | [] => simp [decodeF2]
  | [x] => simp [decodeF2]
  | x :: y :: rest => simp [decodeF2, eq_comm, and_comm]

theorem decodeF1_error (op : Int) (mk : Int → Instr) (rest : List Int) (e : DecodeError) :
    decodeF1 op mk rest = .error e ↔ rest.length < 1 ∧ e = .truncated op (rest.length + 1) := by
  cases rest <;> simp [decodeF1, eq_comm]

theorem decodeF2_error (op : Int) (mk : Int → Int → Instr) (rest : List Int) (e : DecodeError) :
    decodeF2 op mk rest = .error e ↔ rest.length < 2 ∧ e = .truncated op (rest.length + 1) := by
  match rest with
  | [] => simp [decodeF2, eq_comm]
  | [x] => simp [decodeF2, eq_comm]
  | x :: y :: rest => simp [decodeF2]

/-- The operand fetch completes exactly with an instruction of the opcode it is for, whose operands are the cells it
read (R73). -/
theorem decodeOperands_ok (op : Int) (o : Opcode) (rest r : List Int) (i : Instr) :
    decodeOperands op o rest = .ok (i, r) ↔ i.opcode = o ∧ rest = i.operands ++ r := by
  cases o with
  | br | brt | brf | iconst | load | gload | store | gstore =>
    rw [decodeOperands, decodeF1_ok]
    cases i <;> simp [Instr.opcode, Instr.operands, and_comm, eq_comm]
  | call =>
    rw [decodeOperands, decodeF2_ok]
    cases i <;> simp [Instr.opcode, Instr.operands, and_comm, eq_comm]
  | _ => cases i <;> simp [decodeOperands, Instr.opcode, Instr.operands]

/-- The operand fetch fails exactly when fewer cells are left than the arity, at the first missing one (R73). -/
theorem decodeOperands_error (op : Int) (o : Opcode) (rest : List Int) (e : DecodeError) :
    decodeOperands op o rest = .error e ↔
      rest.length < o.arity ∧ e = .truncated op (rest.length + 1) := by
  cases o with
  | br | brt | brf | iconst | load | gload | store | gstore => exact decodeF1_error ..
  | call => exact decodeF2_error ..
  | _ => simp [decodeOperands, Opcode.arity]

theorem decode_of_find_none {m : OpcodeMap} {op : Int} (h : m.find op = none) (rest : List Int) :
    decode m (op :: rest) = .error (.unknownOpcode op) := by simp [decode, h]

theorem decode_of_find_some {m : OpcodeMap} {op : Int} {o : Opcode} (h : m.find op = some o) (rest : List Int) :
    decode m (op :: rest) = decodeOperands op o rest := by simp [decode, h]

theorem opcode_eq_invalid (i : Instr) : i.opcode = .invalid ↔ i = .invalid := by
  cases i <;> simp [Instr.opcode]

end Sys2Proof
end

section
/-! PROOF. The opcode fetch by its address, and the ends of a run it can bring (spec/30_encoding.md R71, R72). -/

namespace Sys2Proof.Machine

/-! ### The fetch -/

theorem fetch_of_neg {s : State} (h : s.ip < 0) : fetch s = .fatal none (.outOfBounds .codeFetch s.ip) := by
  simp [fetch, h]

/-- At an address of CODE, the cells from `ip` on are the opcode cell and the cells after it. -/
theorem codeFrom_ip {s : State} {op : Int} (h0 : 0 ≤ s.ip) (hop : s.cfg.code[s.ip.toNat]? = some op) :
    codeFrom s.ip s = op :: codeFrom (s.ip + 1) s := by
  obtain ⟨hlt, rfl⟩ := List.getElem?_eq_some_iff.1 hop
  rw [codeFrom, codeFrom, Int.toNat_add h0 (by decide), List.drop_eq_getElem_cons hlt]
  rfl

section OpcodeCell

variable {s : State} {op : Int} (h0 : 0 ≤ s.ip) (hop : s.cfg.code[s.ip.toNat]? = some op)
include h0 hop

/-- An opcode cell with no entry in the catalog (R72). -/
theorem fetch_of_find_none (hfind : s.cfg.opcodes.find op = none) : fetch s = .unknown op := by
  simp [fetch, not_lt.2 h0, codeFrom_ip h0 hop, decode_of_find_none hfind]

/-- An opcode cell of the catalog: the fetch reads its instruction, or an operand cell is past the end of code
(R73). -/
theorem fetch_of_find_some {o : Opcode} (hfind : s.cfg.opcodes.find op = some o) :
    (∃ i, i.opcode = o ∧ fetch s = .instr i) ∨
    (∃ j : Nat, j ≤ o.arity ∧ 1 ≤ j ∧ fetch s = .fatal (some op) (.outOfBounds .codeFetch (s.ip + j))) := by
  have hdecode : decode s.cfg.opcodes (codeFrom s.ip s) = decodeOperands op o (codeFrom (s.ip + 1) s) := by
    rw [codeFrom_ip h0 hop, decode_of_find_some hfind]
  rcases hoperands : decodeOperands op o (codeFrom (s.ip + 1) s) with e | ⟨i, r⟩
  · obtain ⟨hshort, rfl⟩ := (decodeOperands_error ..).1 hoperands
    exact .inr ⟨_, hshort, Nat.succ_pos _, by simp [fetch, not_lt.2 h0, hdecode, hoperands]⟩
  · exact .inl ⟨i, ((decodeOperands_ok ..).1 hoperands).1, (fetch_instr s i).2 ⟨h0, r, hdecode.trans hoperands⟩⟩

theorem fetch_of_find_invalid (hfind : s.cfg.opcodes.find op = some .invalid) : fetch s = .instr .invalid := by
  obtain ⟨i, hi, hfetch⟩ | ⟨j, hj, hj1, -⟩ := fetch_of_find_some h0 hop hfind
  · rwa [(opcode_eq_invalid i).1 hi] at hfetch
  · exact absurd (hj1.trans hj) (by decide)

end OpcodeCell

/-! ### The step of each fetch -/

theorem step_of_instr {s : State} {i : Instr} (hs : s.status.state = .running) (h : fetch s = .instr i) :
    step s = exec i s := by simp [step, hs, h]

theorem step_of_endOfCode {s : State} (hs : s.status.state = .running) (h : fetch s = .endOfCode) :
    step s = .next (haltRun .endOfCode s.ip s) := (step_next ..).2 ⟨hs, .inr (.inl ⟨h, rfl⟩)⟩

theorem step_of_unknown {s : State} {op : Int} (hs : s.status.state = .running) (h : fetch s = .unknown op) :
    step s = .next (takeUnknownOpcode op s) := (step_next ..).2 ⟨hs, .inr (.inr (.inl ⟨op, h, rfl⟩))⟩

theorem step_of_fatal {s : State} {op : Option Int} {c : Fatal} (hs : s.status.state = .running)
    (h : fetch s = .fatal op c) : step s = .next (takeFatal op c s) :=
  (step_next ..).2 ⟨hs, .inr (.inr (.inr ⟨op, c, h, rfl⟩))⟩

/-- Taking a fatal condition leaves everything but `STATUS` as it was, and records the condition there (R164,
R170). -/
theorem takeFatal_faultedFrom (op : Option Int) (c : Fatal) (s : State) :
    FaultedFrom s (takeFatal op c s) op c.error c.access c.address := by simp [FaultedFrom]

/-- Settles O6, by the address of the fetch: below 0 the fetch faults, at and past the end of code it ends the run,
and between them the catalog entry of the opcode cell decides. -/
theorem opcodeFetchByAddress : Obligations.OpcodeFetchByAddress := by
  intro s hs
  refine ⟨fun hneg => ?_, fun hend => ?_, fun op h0 hop => ?_⟩
  · exact ⟨_, step_of_fatal hs (fetch_of_neg hneg), takeFatal_faultedFrom ..⟩
  · have h0 : 0 ≤ s.ip := (Int.natCast_nonneg _).trans hend
    exact ⟨_, step_of_endOfCode hs ((fetch_endOfCode s).2 ⟨h0, hend⟩), by simp [SameStack, SameGlobals]⟩
  · cases hfind : s.cfg.opcodes.find op with
    | none => exact .inr (.inl ⟨_, step_of_unknown hs (fetch_of_find_none h0 hop hfind), rfl, rfl⟩)
    | some o =>
      obtain ⟨i, rfl, hfetch⟩ | ⟨j, -, -, hfetch⟩ := fetch_of_find_some h0 hop hfind
      · exact .inl ⟨i, number_of_find hfind, step_of_instr hs hfetch⟩
      · exact .inr (.inr ⟨_, step_of_fatal hs hfetch, rfl, rfl⟩)

/-- INVALID's number and a value with no entry have one outcome (R65, R72, R151). -/
theorem step_of_illegalOpcode {s : State} {op : Int} (hs : s.status.state = .running) (h0 : 0 ≤ s.ip)
    (hop : s.cfg.code[s.ip.toNat]? = some op)
    (hfind : s.cfg.opcodes.find op = some .invalid ∨ s.cfg.opcodes.find op = none) :
    step s = .next (takeUnknownOpcode op s) := by
  rcases hfind with hinvalid | hnone
  · have hexec : exec .invalid s = .next (takeUnknownOpcode op s) :=
      (exec_next ..).2 (.inl ⟨rfl, by rw [number_of_find hinvalid]⟩)
    exact (step_of_instr hs (fetch_of_find_invalid h0 hop hinvalid)).trans hexec
  · exact step_of_unknown hs (fetch_of_find_none h0 hop hnone)

/-- Settles O7: the step takes the unknown opcode, which writes `STATUS` alone. -/
theorem unknownOpcodeEndsTheRun : Obligations.UnknownOpcodeEndsTheRun := by
  intro s op hs h0 hop hfind
  exact ⟨_, step_of_illegalOpcode hs h0 hop hfind, by simp [SameStack, SameGlobals]⟩

end Sys2Proof.Machine
end

section
/-! PROOF. How an instruction completes or faults, from what its execute rule answers (spec/60_exceptions.md R164,
R170), and the faults of the pops an execute rule begins with (R49). -/

namespace Sys2Proof.Machine

/-! ### From the rule to the instruction -/

section Rule

variable {i : Instr} {rule : State → Except Fatal State} {s : State} (hexec : exec i s = perform i rule s)
include hexec

theorem completes_of_rule_ok {t : State} {P : State → Prop} (hrule : rule (advance i s) = .ok t) (hP : P t) :
    Completes i s P := ⟨t, hexec.trans (perform_of_ok hrule), hP⟩

theorem faults_of_rule_error {c : Fatal} (hrule : rule (advance i s) = .error c) :
    Faults i s c.error c.access c.address :=
  ⟨_, hexec.trans (perform_of_error hrule), takeFatal_faultedFrom ..⟩

end Rule

/-! ### Pops -/

theorem pop_of_empty {s : State} (h : s.sp = -1) : pop s = .error (.outOfBounds .stackPop (-1)) :=
  (pop_error ..).2 (.inl ⟨h, rfl⟩)

theorem pop_of_unwritten {s : State} (hsp : SpInRange s) (h0 : 0 ≤ s.sp) (h : s.slot s.sp = none) :
    pop s = .error (.uninitialized .stackPop s.sp) :=
  (pop_error ..).2 (.inr (.inr ⟨h0, hsp.2, h, rfl⟩))

theorem pop_of_written {s : State} {v : Int} (hsp : SpInRange s) (h0 : 0 ≤ s.sp) (h : s.slot s.sp = some v) :
    pop s = .ok (v, { s with sp := s.sp - 1 }) := (pop_ok ..).2 ⟨h0, hsp.2, h, rfl⟩

/-- Lowering `sp` of a nonempty stack by one keeps it in its range (R21). -/
theorem spInRange_pred {s : State} (hsp : SpInRange s) (h0 : 0 ≤ s.sp) :
    SpInRange { s with sp := s.sp - 1 } := by
  obtain ⟨-, hcap⟩ := hsp
  constructor <;> dsimp only <;> omega

section Pops

variable {i : Instr} {rule : State → Except Fatal State} {s : State} (hexec : exec i s = perform i rule s)
  (hsp : SpInRange s)
include hexec hsp

/-- An execute rule that begins with a pop raises what that pop raises, whatever it goes on with. -/
theorem faultsOnPop_of_rule {k : Int × State → Except Fatal State}
    (hrule : rule (advance i s) = pop (advance i s) >>= k) : FaultsOnPop i s := by
  have raises {c : Fatal} (hpop : pop (advance i s) = .error c) : Faults i s c.error c.access c.address :=
    faults_of_rule_error hexec (hrule.trans ((bind_error ..).2 (.inl hpop)))
  exact ⟨fun hempty => raises (pop_of_empty hempty), fun h0 hnone => raises (pop_of_unwritten hsp h0 hnone)⟩

/-- An execute rule that begins with two pops raises what the first raises, and past a written top what the second
raises at the cell below. -/
theorem faultsOnTwoPops_of_rule {k : Int × State → Int × State → Except Fatal State}
    (hrule : rule (advance i s) = pop (advance i s) >>= fun top => pop top.2 >>= k top) :
    FaultsOnTwoPops i s := by
  have raisesSecond {c : Fatal} (h0 : 0 ≤ s.sp) (htop : s.slot s.sp ≠ none)
      (hpop : pop { advance i s with sp := s.sp - 1 } = .error c) : Faults i s c.error c.access c.address := by
    obtain ⟨b, hb⟩ := Option.ne_none_iff_exists'.1 htop
    have hfirst : pop (advance i s) = .ok (b, { advance i s with sp := s.sp - 1 }) := pop_of_written hsp h0 hb
    refine faults_of_rule_error hexec (hrule.trans ?_)
    exact (bind_error ..).2 (.inr ⟨_, hfirst, (bind_error ..).2 (.inl hpop)⟩)
  refine ⟨faultsOnPop_of_rule hexec hsp hrule, fun h0 htop => ?_, fun h1 htop hnone => ?_⟩
  · have hbelow : s.sp - 1 = -1 := by omega
    exact raisesSecond h0.ge (h0 ▸ htop) (pop_of_empty hbelow)
  · have h0 : 0 ≤ s.sp := by omega
    have hbelow : 0 ≤ s.sp - 1 := by omega
    exact raisesSecond h0 htop (pop_of_unwritten (spInRange_pred hsp h0) hbelow hnone)

end Pops

/-- A write to the stack memory changes the slot written and no other (R43). -/
theorem stackWrittenAt_of_write {s t : State} {a v : Int} (h0 : 0 ≤ a) (h : t.stack = s.stack.write a.toNat v) :
    StackWrittenAt s t a v := by
  have hslot (b : Int) : t.slot b = if b = a then some v else s.slot b := by
    rw [State.slot, h, cell_write _ h0]; rfl
  exact ⟨by simp [hslot], fun b hb => by simp [hslot, hb]⟩

end Sys2Proof.Machine
end

section
/-! PROOF. The integer ALU: IADD, ISUB, IMUL, ILT, IEQ (spec/41_alu.md R99 to R104). -/

namespace Sys2Proof.Machine

/-- Writing `v` over the second cell and lowering `sp` to it, in an instruction of one cell. -/
theorem replacesTopTwo_of_write {i : Instr} {s : State} (hlen : i.length = 1) (h1 : 1 ≤ s.sp) (v : Int) :
    ReplacesTopTwo s { advance i s with sp := s.sp - 1, stack := s.stack.write (s.sp - 1).toNat v } v := by
  have hip : (advance i s).ip = s.ip + 1 := by simp [hlen]
  exact ⟨hip, rfl, rfl, rfl, stackWrittenAt_of_write (by omega) rfl, fun _ => rfl, rfl, rfl⟩

/-- The arithmetic rule as two pops and what it does with their values; `below` is popped second. -/
theorem arithmetic_eq_bind (f : Int → Int → Int) (s : State) :
    arithmetic f s = pop s >>= fun top => pop top.2 >>= fun below =>
      if inRange s.cfg.cellBits (f below.1 top.1) then push (f below.1 top.1) below.2 else .error .overflow := rfl

theorem comparison_eq_bind (f : Int → Int → Bool) (s : State) :
    comparison f s = pop s >>= fun top => pop top.2 >>= fun below => push (truthWord (f below.1 top.1)) below.2 := rfl

/-- The range test comes after both pops (R99). -/
theorem arithmetic_overflow {f : Int → Int → Int} {s : State} {a b : Int} (hsp : SpInRange s) (h1 : 1 ≤ s.sp)
    (hb : s.slot s.sp = some b) (ha : s.slot (s.sp - 1) = some a) (hr : inRange s.cfg.cellBits (f a b) = false) :
    arithmetic f s = .error .overflow := by
  have h0 : 0 ≤ s.sp := by omega
  have hbelow : 0 ≤ s.sp - 1 := by omega
  have hfirst := pop_of_written hsp h0 hb
  have hsecond := pop_of_written (spInRange_pred hsp h0) hbelow ha
  rw [arithmetic_eq_bind]
  exact (bind_error ..).2 (.inr ⟨_, hfirst, (bind_error ..).2 (.inr ⟨_, hsecond, by simp [hr]⟩)⟩)

/-- What an instruction that performs the arithmetic rule does: the result, Overflow, and the faults of the pops
(R99 to R102). -/
theorem arithmetic_outcomes {i : Instr} {f : Int → Int → Int} {s : State}
    (hexec : exec i s = perform i (arithmetic f) s) (hlen : i.length = 1) (hsp : SpInRange s) :
    (∀ a b, 1 ≤ s.sp → s.slot s.sp = some b → s.slot (s.sp - 1) = some a →
      inRange s.cfg.cellBits (f a b) = true → Completes i s fun t => ReplacesTopTwo s t (f a b)) ∧
    (∀ a b, 1 ≤ s.sp → s.slot s.sp = some b → s.slot (s.sp - 1) = some a →
      inRange s.cfg.cellBits (f a b) = false → Faults i s .overflow .arith none) ∧
    FaultsOnTwoPops i s := by
  refine ⟨fun a b h1 hb ha hr => ?_, fun a b h1 hb ha hr => ?_, ?_⟩
  · have hrule := (arithmetic_ok f (advance i s) _).2 ⟨a, b, h1, hsp.2, hb, ha, hr, rfl⟩
    exact completes_of_rule_ok hexec hrule (replacesTopTwo_of_write hlen h1 (f a b))
  · have hrule : arithmetic f (advance i s) = .error .overflow := arithmetic_overflow hsp h1 hb ha hr
    exact faults_of_rule_error hexec hrule
  · exact faultsOnTwoPops_of_rule hexec hsp (arithmetic_eq_bind f (advance i s))

/-- What an instruction that performs the comparison rule does: 1 or 0, and the faults of the pops; there is no
range test (R103, R104). -/
theorem comparison_outcomes {i : Instr} {p : Int → Int → Prop} [∀ a b, Decidable (p a b)] {s : State}
    (hexec : exec i s = perform i (comparison fun a b => decide (p a b)) s) (hlen : i.length = 1)
    (hsp : SpInRange s) :
    (∀ a b, 1 ≤ s.sp → s.slot s.sp = some b → s.slot (s.sp - 1) = some a →
      Completes i s fun t => ReplacesTopTwo s t (if p a b then 1 else 0)) ∧
    FaultsOnTwoPops i s := by
  refine ⟨fun a b h1 hb ha => ?_, ?_⟩
  · have hrule := (comparison_ok (fun a b => decide (p a b)) (advance i s) _).2 ⟨a, b, h1, hsp.2, hb, ha, rfl⟩
    have hword : truthWord (decide (p a b)) = if p a b then 1 else 0 := by simp [truthWord]
    exact completes_of_rule_ok hexec hrule (hword ▸ replacesTopTwo_of_write hlen h1 _)
  · exact faultsOnTwoPops_of_rule hexec hsp (comparison_eq_bind _ (advance i s))

/-- Settles O9: IADD performs the arithmetic rule with `a + b`. -/
theorem iaddPushesTheSum : Obligations.IaddPushesTheSum :=
  ⟨rfl, fun _ hsp => arithmetic_outcomes (f := fun a b => a + b) rfl rfl hsp⟩

/-- Settles O10: ISUB performs the arithmetic rule with `a - b`, where `b` is the cell popped first. -/
theorem isubPushesTheDifference : Obligations.IsubPushesTheDifference :=
  ⟨rfl, fun _ hsp => arithmetic_outcomes (f := fun a b => a - b) rfl rfl hsp⟩

/-- Settles O11: IMUL performs the arithmetic rule with `a * b`. -/
theorem imulPushesTheProduct : Obligations.ImulPushesTheProduct :=
  ⟨rfl, fun _ hsp => arithmetic_outcomes (f := fun a b => a * b) rfl rfl hsp⟩

/-- Settles O12: ILT performs the comparison rule with the strict signed order. -/
theorem iltPushesOneOrZero : Obligations.IltPushesOneOrZero :=
  ⟨rfl, fun _ hsp => comparison_outcomes (p := fun a b => a < b) rfl rfl hsp⟩

/-- Settles O13: IEQ performs the comparison rule with equality of integers. -/
theorem ieqPushesOneOrZero : Obligations.IeqPushesOneOrZero :=
  ⟨rfl, fun _ hsp => comparison_outcomes (p := fun a b => a = b) rfl rfl hsp⟩

end Sys2Proof.Machine
end

section
/-! PROOF. The operand fetch cut short by the end of code (spec/30_encoding.md R73). -/

namespace Sys2Proof.Machine

/-- With CODE ending where operand cell `j` of the instruction at `ip` would stand, `j - 1` operand cells are left. -/
theorem length_codeFrom_operands {s : State} {j : Nat} (h0 : 0 ≤ s.ip) (h1 : 1 ≤ j) (hlen : s.cfg.len = s.ip + j) :
    (codeFrom (s.ip + 1) s).length + 1 = j := by
  have hcode : (s.cfg.code.length : Int) = s.ip + j := hlen
  rw [codeFrom, List.length_drop]
  omega

/-- The fetch of an instruction whose operand cell `j` is the first past the end of code faults at that cell. -/
theorem fetch_of_truncated {s : State} {op : Int} {o : Opcode} {j : Nat} (h0 : 0 ≤ s.ip)
    (hop : s.cfg.code[s.ip.toNat]? = some op) (hfind : s.cfg.opcodes.find op = some o)
    (h1 : 1 ≤ j) (hj : j ≤ o.arity) (hlen : s.cfg.len = s.ip + j) :
    fetch s = .fatal (some op) (.outOfBounds .codeFetch (s.ip + j)) := by
  have hleft := length_codeFrom_operands h0 h1 hlen
  have hoperands : decodeOperands op o (codeFrom (s.ip + 1) s) = .error (.truncated op j) :=
    (decodeOperands_error ..).2 ⟨by omega, by rw [hleft]⟩
  simp [fetch, not_lt.2 h0, codeFrom_ip h0 hop, decode_of_find_some hfind, hoperands]

/-- An instruction of any opcode, cut short by the end of code, faults at its first missing operand cell: the
numbering is injective, so its opcode cell is looked up as that opcode. -/
theorem faultsWhenTruncated (o : Opcode) (s : State) : FaultsWhenTruncated o s := by
  intro j hwf hs h0 hop h1 hj hlen
  have hfetch := fetch_of_truncated h0 hop (find_number hwf o) h1 hj hlen
  exact ⟨_, step_of_fatal hs hfetch, takeFatal_faultedFrom ..⟩

end Sys2Proof.Machine
end

section
/-! PROOF. The branches: BR, BRT, BRF (spec/42_branch.md R110 to R112). -/

namespace Sys2Proof.Machine

/-- The branch rule as a pop and what it does with the value popped. -/
theorem branchOn_eq_bind (taken target : Int) (s : State) :
    branchOn taken target s =
      pop s >>= fun top => if top.1 = taken then .ok (jump target top.2) else .ok top.2 := rfl

/-- What an instruction of two cells that performs the branch rule does: it pops a value and branches for `taken`
alone, or faults on the pop (R111, R112). -/
theorem branchOn_outcomes {i : Instr} {taken target : Int} {s : State}
    (hexec : exec i s = perform i (branchOn taken target) s) (hlen : i.length = 2) (hsp : SpInRange s) :
    (∀ v, 0 ≤ s.sp → s.slot s.sp = some v →
      Completes i s fun t =>
        t.ip = (if v = taken then target else s.ip + 2) ∧ t.sp = s.sp - 1 ∧ t.fp = s.fp ∧ t.out = s.out ∧
        SameStack s t ∧ SameGlobals s t ∧ SameEngine s t) ∧
    FaultsOnPop i s := by
  refine ⟨fun v h0 hv => ?_, faultsOnPop_of_rule hexec hsp (branchOn_eq_bind taken target (advance i s))⟩
  have hrule := (branchOn_ok taken target (advance i s) _).2 ⟨v, h0, hsp.2, hv, rfl⟩
  have hip : (advance i s).ip = s.ip + 2 := by simp [hlen]
  exact completes_of_rule_ok hexec hrule ⟨by rw [hip], rfl, rfl, rfl, fun _ => rfl, fun _ => rfl, rfl, rfl⟩

/-- Settles O15: BRT performs the branch rule with 1 as the value that branches. -/
theorem brtBranchesOnOneOnly : Obligations.BrtBranchesOnOneOnly := by
  intro s target hsp
  obtain ⟨hbranch, hpop⟩ := branchOn_outcomes (i := .brt target) rfl rfl hsp
  exact ⟨rfl, hbranch, hpop, faultsWhenTruncated .brt s⟩

/-- Settles O16: BRF performs the branch rule with 0 as the value that branches. -/
theorem brfBranchesOnZeroOnly : Obligations.BrfBranchesOnZeroOnly := by
  intro s target hsp
  obtain ⟨hbranch, hpop⟩ := branchOn_outcomes (i := .brf target) rfl rfl hsp
  exact ⟨rfl, hbranch, hpop, faultsWhenTruncated .brf s⟩

/-- Settles O14: BR's rule always completes, with the jump, which writes `ip` over the advanced one. -/
theorem brJumpsToTheTarget : Obligations.BrJumpsToTheTarget := by
  intro s target
  have hrule : ruleOf s.ip (.br target) (advance (.br target) s) = .ok (jump target (advance (.br target) s)) := rfl
  have hexec := exec_eq_perform (.br target) s (by simp)
  exact ⟨rfl, completes_of_rule_ok hexec hrule (by simp [SameStack, SameGlobals, SameEngine]),
    faultsWhenTruncated .br s⟩

end Sys2Proof.Machine
end

section
/-! PROOF. Constants and loads: ICONST, LOAD, GLOAD (spec/43_data_movement.md R120 to R122). Each takes a value and
then pushes it; they differ in where the value comes from. -/

namespace Sys2Proof.Machine

theorem push_of_full {s : State} (h : s.sp = s.cfg.stackCapacity - 1) (v : Int) :
    push v s = .error (.outOfBounds .stackPush s.cfg.stackCapacity) := (push_error ..).2 (.inl ⟨h, rfl⟩)

/-- Writing `v` over the slot above the top and raising `sp` to it, in an instruction of two cells. -/
theorem pushesOne_of_write {i : Instr} {s : State} (hlen : i.length = 2) (hsp : SpInRange s) (v : Int) :
    PushesOne s { advance i s with sp := s.sp + 1, stack := s.stack.write (s.sp + 1).toNat v } v := by
  have hip : (advance i s).ip = s.ip + 2 := by simp [hlen]
  have h0 : 0 ≤ s.sp + 1 := by have := hsp.1; omega
  exact ⟨hip, rfl, rfl, rfl, stackWrittenAt_of_write h0 rfl, fun _ => rfl, rfl, rfl⟩

section ValueThenPush

variable {i : Instr} {rule : State → Except Fatal State} {value : Except Fatal Int} {s : State}
  (hexec : exec i s = perform i rule s)
  (hrule : rule (advance i s) = value >>= fun v => push v (advance i s))
include hexec hrule

/-- A value that cannot be had is a fault before the push is tried. -/
theorem faults_of_value_error {c : Fatal} (hvalue : value = .error c) : Faults i s c.error c.access c.address :=
  faults_of_rule_error hexec (hrule.trans ((bind_error ..).2 (.inl hvalue)))

theorem completes_of_value_ok {v : Int} (hlen : i.length = 2) (hsp : SpInRange s) (hvalue : value = .ok v)
    (hfree : s.sp < s.cfg.stackCapacity - 1) : Completes i s fun t => PushesOne s t v := by
  have hpush := (push_ok v (advance i s) _).2 ⟨hsp.1, hfree, rfl⟩
  exact completes_of_rule_ok hexec (hrule.trans ((bind_ok ..).2 ⟨v, hvalue, hpush⟩)) (pushesOne_of_write hlen hsp v)

theorem faults_of_value_ok_full {v : Int} (hvalue : value = .ok v) (hfull : s.sp = s.cfg.stackCapacity - 1) :
    Faults i s .outOfBoundsAccess .stackPush (some s.cfg.stackCapacity) := by
  have hpush : push v (advance i s) = .error (.outOfBounds .stackPush s.cfg.stackCapacity) :=
    push_of_full (s := advance i s) hfull v
  exact faults_of_rule_error hexec (hrule.trans ((bind_error ..).2 (.inr ⟨v, hvalue, hpush⟩)))

end ValueThenPush

/-- Settles O17: ICONST has its value at hand, so only the push can fault in the execute stage. -/
theorem iconstPushesTheLiteral : Obligations.IconstPushesTheLiteral := by
  intro s literal hsp
  have hexec : exec (.iconst literal) s = perform (.iconst literal) (push literal) s := rfl
  have hrule : push literal (advance (.iconst literal) s) =
      Except.ok literal >>= fun v => push v (advance (.iconst literal) s) := rfl
  exact ⟨rfl, completes_of_value_ok hexec hrule rfl hsp rfl, faults_of_value_ok_full hexec hrule rfl,
    faultsWhenTruncated .iconst s⟩

/-- Settles O18: LOAD's value is the frame read, which checks the address against `[0, sp]` and then that the slot was
written. -/
theorem loadPushesTheFrameSlot : Obligations.LoadPushesTheFrameSlot := by
  intro s offset hsp
  have hexec : exec (.load offset) s = perform (.load offset) (loadFrame offset) s := rfl
  have hrule : loadFrame offset (advance (.load offset) s) =
      readFrame offset (advance (.load offset) s) >>= fun v => push v (advance (.load offset) s) := rfl
  have hread {v : Int} (h0 : 0 ≤ frameAddress offset s) (hlive : frameAddress offset s ≤ s.sp)
      (hv : s.slot (frameAddress offset s) = some v) : readFrame offset (advance (.load offset) s) = .ok v :=
    (readFrame_ok ..).2 ⟨h0, hlive, hlive.trans hsp.2, hv⟩
  refine ⟨rfl, fun v h0 hlive hv hfree => ?_, fun hout => ?_, fun h0 hlive hnone => ?_,
    fun h0 hlive hwritten hfull => ?_⟩
  · exact completes_of_value_ok hexec hrule rfl hsp (hread h0 hlive hv) hfree
  · exact faults_of_value_error hexec hrule ((readFrame_error ..).2 (.inl ⟨hout.imp_right .inl, rfl⟩))
  · exact faults_of_value_error hexec hrule
      ((readFrame_error ..).2 (.inr ⟨h0, hlive, hlive.trans hsp.2, hnone, rfl⟩))
  · obtain ⟨v, hv⟩ := Option.ne_none_iff_exists'.1 hwritten
    exact faults_of_value_ok_full hexec hrule (hread h0 hlive hv) hfull

/-- Settles O19: GLOAD's value is the global read, which checks the bounds and then that the cell was written. -/
theorem gloadPushesTheGlobal : Obligations.GloadPushesTheGlobal := by
  intro s addr hsp
  have hexec : exec (.gload addr) s = perform (.gload addr) (loadGlobal addr) s := rfl
  have hrule : loadGlobal addr (advance (.gload addr) s) =
      readGlobal addr (advance (.gload addr) s) >>= fun v => push v (advance (.gload addr) s) := rfl
  have hread {v : Int} (h0 : 0 ≤ addr) (hin : addr ≤ s.cfg.globalsSize - 1) (hv : s.global addr = some v) :
      readGlobal addr (advance (.gload addr) s) = .ok v := (readGlobal_ok ..).2 ⟨h0, hin, hv⟩
  refine ⟨rfl, fun v h0 hin hv hfree => ?_, fun hout => ?_, fun h0 hin hnone => ?_,
    fun h0 hin hwritten hfull => ?_⟩
  · exact completes_of_value_ok hexec hrule rfl hsp (hread h0 hin hv) hfree
  · exact faults_of_value_error hexec hrule ((readGlobal_error ..).2 (.inl ⟨hout, rfl⟩))
  · exact faults_of_value_error hexec hrule ((readGlobal_error ..).2 (.inr ⟨h0, hin, hnone, rfl⟩))
  · obtain ⟨v, hv⟩ := Option.ne_none_iff_exists'.1 hwritten
    exact faults_of_value_ok_full hexec hrule (hread h0 hin hv) hfull

end Sys2Proof.Machine
end

section
/-! PROOF. Stores, output and discard: STORE, GSTORE, PUTS, POP (spec/43_data_movement.md R123 to R126). Each pops a
value first; they differ in where the value goes. -/

namespace Sys2Proof.Machine

/-- A write to the global store changes the cell written and no other (R45). -/
theorem globalWrittenAt_of_write {s t : State} {a v : Int} (h0 : 0 ≤ a)
    (h : t.globals = s.globals.write a.toNat v) : GlobalWrittenAt s t a v := by
  have hglobal (b : Int) : t.global b = if b = a then some v else s.global b := by
    rw [State.global, h, cell_write _ h0]; rfl
  exact ⟨by simp [hglobal], fun b hb => by simp [hglobal, hb]⟩

/-- An execute rule that pops a written top raises what it then raises with `sp` already lowered. -/
theorem faults_of_pop_then_error {i : Instr} {rule : State → Except Fatal State} {s : State} {c : Fatal}
    {k : Int × State → Except Fatal State} (hexec : exec i s = perform i rule s)
    (hrule : rule (advance i s) = pop (advance i s) >>= k) (hsp : SpInRange s) (h0 : 0 ≤ s.sp)
    (hwritten : s.slot s.sp ≠ none) (hk : ∀ v, k (v, { advance i s with sp := s.sp - 1 }) = .error c) :
    Faults i s c.error c.access c.address := by
  obtain ⟨v, hv⟩ := Option.ne_none_iff_exists'.1 hwritten
  have hpop : pop (advance i s) = .ok (v, { advance i s with sp := s.sp - 1 }) := pop_of_written hsp h0 hv
  exact faults_of_rule_error hexec (hrule.trans ((bind_error ..).2 (.inr ⟨_, hpop, hk v⟩)))

/-! ### Each rule as a pop and what it does with the value popped -/

theorem storeFrame_eq_bind (offset : Int) (s : State) :
    storeFrame offset s = pop s >>= fun top => writeFrame offset top.1 top.2 := rfl

theorem storeGlobal_eq_bind (addr : Int) (s : State) :
    storeGlobal addr s = pop s >>= fun top => writeGlobal addr top.1 top.2 := rfl

theorem output_eq_bind (s : State) : output s = pop s >>= fun top => .ok (emit top.1 top.2) := rfl

theorem discard_eq_bind (s : State) : discard s = pop s >>= fun top => .ok top.2 := rfl

/-! ### The instructions -/

/-- Settles O20: the frame write of STORE checks its address against the `sp` that the pop leaves. -/
theorem storeWritesTheFrameSlot : Obligations.StoreWritesTheFrameSlot := by
  intro s offset hsp
  have hexec : exec (.store offset) s = perform (.store offset) (storeFrame offset) s := rfl
  have hbind := storeFrame_eq_bind offset (advance (.store offset) s)
  refine ⟨rfl, fun v h0 hv ha hlive => ?_, faultsOnPop_of_rule hexec hsp hbind, fun h0 hwritten hout => ?_⟩
  · have hrule := (storeFrame_ok offset (advance (.store offset) s) _).2 ⟨v, ha, hlive, hsp.2, hv, rfl⟩
    exact completes_of_rule_ok hexec hrule
      ⟨rfl, rfl, rfl, rfl, stackWrittenAt_of_write ha rfl, fun _ => rfl, rfl, rfl⟩
  · exact faults_of_pop_then_error (c := .outOfBounds .frameWrite (s.fp + offset)) hexec hbind hsp h0 hwritten
      fun v => (writeFrame_error ..).2 ⟨hout.imp_right .inl, rfl⟩

/-- Settles O21: the bounds check of GSTORE comes after its pop. -/
theorem gstoreWritesTheGlobal : Obligations.GstoreWritesTheGlobal := by
  intro s addr hsp
  have hexec : exec (.gstore addr) s = perform (.gstore addr) (storeGlobal addr) s := rfl
  have hbind := storeGlobal_eq_bind addr (advance (.gstore addr) s)
  refine ⟨rfl, fun v h0 hv ha hin => ?_, faultsOnPop_of_rule hexec hsp hbind, fun h0 hwritten hout => ?_⟩
  · have hrule := (storeGlobal_ok addr (advance (.gstore addr) s) _).2 ⟨v, h0, hsp.2, hv, ha, hin, rfl⟩
    exact completes_of_rule_ok hexec hrule
      ⟨rfl, rfl, rfl, rfl, fun _ => rfl, globalWrittenAt_of_write ha rfl, rfl, rfl⟩
  · exact faults_of_pop_then_error hexec hbind hsp h0 hwritten fun v => (writeGlobal_error ..).2 ⟨hout, rfl⟩

/-- Settles O22: past its pop PUTS always completes, with the value at the end of `OUT`. -/
theorem putsAppendsToTheOutput : Obligations.PutsAppendsToTheOutput := by
  refine ⟨rfl, fun s hsp => ?_⟩
  have hexec : exec .puts s = perform .puts output s := rfl
  refine ⟨fun v h0 hv => ?_, faultsOnPop_of_rule hexec hsp (output_eq_bind (advance .puts s))⟩
  have hrule := (output_ok (advance .puts s) _).2 ⟨v, h0, hsp.2, hv, rfl⟩
  exact completes_of_rule_ok hexec hrule ⟨rfl, rfl, rfl, rfl, fun _ => rfl, fun _ => rfl, rfl, rfl⟩

/-- Settles O23: past its pop POP always completes, and the pop alone has read the slot. -/
theorem popDiscardsTheTop : Obligations.PopDiscardsTheTop := by
  refine ⟨rfl, fun s hsp => ?_⟩
  have hexec : exec .pop s = perform .pop discard s := rfl
  refine ⟨fun v h0 hv => ?_, faultsOnPop_of_rule hexec hsp (discard_eq_bind (advance .pop s))⟩
  have hrule := (discard_ok (advance .pop s) _).2 ⟨⟨v, h0, hsp.2, hv⟩, rfl⟩
  exact completes_of_rule_ok hexec hrule ⟨rfl, rfl, rfl, rfl, fun _ => rfl, fun _ => rfl, rfl, rfl⟩

end Sys2Proof.Machine
end

section
/-! PROOF. The call frame: CALL and RET (spec/44_call_return.md R140, R141). -/

namespace Sys2Proof.Machine

/-! ### CALL -/

/-- From a `sp` in its range a push raises on a full stack alone. -/
theorem eq_of_push_error {v : Int} {s : State} {c : Fatal} (hsp : SpInRange s) (h : push v s = .error c) :
    c = .outOfBounds .stackPush s.cfg.stackCapacity := by
  obtain ⟨hlow, hcap⟩ := hsp
  obtain ⟨-, hc⟩ | ⟨hout, -, -⟩ := (push_error ..).1 h
  · exact hc
  · omega

theorem spInRange_of_push {v : Int} {s t : State} (h : push v s = .ok t) : SpInRange t := by
  obtain ⟨hlow, hfree, rfl⟩ := (push_ok ..).1 h
  constructor <;> dsimp only <;> omega

theorem cfg_of_push {v : Int} {s t : State} (h : push v s = .ok t) : t.cfg = s.cfg := by
  obtain ⟨-, -, rfl⟩ := (push_ok ..).1 h
  rfl

/-- The call rule as three pushes and the writes of `fp` and `ip`. -/
theorem callFrame_eq_bind (target n : Int) (s : State) :
    callFrame target n s = push n s >>= fun s₁ => push s.fp s₁ >>= fun s₂ => push s.ip s₂ >>= fun s₃ =>
      .ok { s₃ with fp := s₃.sp, ip := target } := rfl

/-- Whichever of CALL's three pushes raises, the condition is the same. -/
theorem eq_of_callFrame_error {target n : Int} {s : State} {c : Fatal} (hsp : SpInRange s)
    (h : callFrame target n s = .error c) : c = .outOfBounds .stackPush s.cfg.stackCapacity := by
  simp only [callFrame_eq_bind, bind_error, reduceCtorEq, and_false, exists_false, or_false] at h
  obtain hcount | ⟨s₁, hs₁, hfp | ⟨s₂, hs₂, hip⟩⟩ := h
  · exact eq_of_push_error hsp hcount
  · rw [eq_of_push_error (spInRange_of_push hs₁) hfp, cfg_of_push hs₁]
  · rw [eq_of_push_error (spInRange_of_push hs₂) hip, cfg_of_push hs₂, cfg_of_push hs₁]

/-- The call rule completes with three free slots only, so with fewer it raises. -/
theorem callFrame_of_few_free {target n : Int} {s : State} (hsp : SpInRange s)
    (hfew : s.cfg.stackCapacity - 4 < s.sp) :
    callFrame target n s = .error (.outOfBounds .stackPush s.cfg.stackCapacity) := by
  cases h : callFrame target n s with
  | error c => rw [eq_of_callFrame_error hsp h]
  | ok t =>
    obtain ⟨-, hroom, -⟩ := (callFrame_ok ..).1 h
    omega

/-- Any cell of a memory after the three header words `n`, `f`, `r` are written above address `a`. -/
theorem cell_write_header (m : Memory) {a : Int} (h : -1 ≤ a) (n f r b : Int) :
    (((m.write (a + 1).toNat n).write (a + 2).toNat f).write (a + 3).toNat r).cell b =
      if b = a + 3 then some r else if b = a + 2 then some f else if b = a + 1 then some n else m.cell b := by
  rw [cell_write _ (by omega), cell_write _ (by omega), cell_write _ (by omega)]

/-- Settles O24: with three free slots the rule's stack is the old one with the header above it; with fewer, one of
the pushes raises and the state at the start of the step stands. -/
theorem callBuildsTheFrameHeader : Obligations.CallBuildsTheFrameHeader := by
  intro s target n hsp
  have hexec : exec (.call target n) s = perform (.call target n) (callFrame target n) s := rfl
  refine ⟨rfl, fun hroom => ?_, fun hfew => ?_, faultsWhenTruncated .call s⟩
  · have hrule := (callFrame_ok target n (advance (.call target n) s) _).2 ⟨hsp.1, hroom, rfl⟩
    have hslot := cell_write_header s.stack hsp.1 n s.fp (s.ip + 3)
    refine completes_of_rule_ok hexec hrule ⟨rfl, rfl, rfl, rfl, (hslot _).trans ?_, (hslot _).trans ?_,
      (hslot _).trans ?_, fun a h1 h2 h3 => (hslot a).trans ?_, fun _ => rfl, rfl, rfl⟩
    · simp
    · simp
    · simp
    · simp [h1, h2, h3, State.slot]
  · have hrule : callFrame target n (advance (.call target n) s) =
        .error (.outOfBounds .stackPush s.cfg.stackCapacity) :=
      callFrame_of_few_free (s := advance (.call target n) s) hsp hfew
    exact faults_of_rule_error hexec hrule

/-! ### RET -/

/-- The part of RET's rule that follows `sp <- fp`: the header is popped, the arguments are discarded and the return
value `rv` is pushed (R141). -/
def unwindHeader (rv : Int) (s : State) : Except Fatal State :=
  pop s >>= fun r => pop r.2 >>= fun f => pop f.2 >>= fun n => discardArgs n.1 n.2 >>= fun s₁ =>
    push rv s₁ >>= fun s₂ => .ok { s₂ with ip := r.1, fp := f.1 }

theorem returnFrame_eq_bind (s : State) :
    returnFrame s = pop s >>= fun rv => restoreSp rv.2 >>= unwindHeader rv.1 := rfl

theorem pop_at_unwritten {s : State} {a : Int} (h0 : 0 ≤ a) (hcap : a ≤ s.cfg.stackCapacity - 1)
    (hnone : s.slot a = none) : pop { s with sp := a } = .error (.uninitialized .stackPop a) :=
  (pop_error ..).2 (.inr (.inr ⟨h0, hcap, hnone, rfl⟩))

/-- A rule whose first pop finds slot `a` written raises what it then raises with `sp` at the slot below. -/
theorem pop_bind_of_written {s : State} {a b : Int} {k : Int × State → Except Fatal State} {c : Fatal}
    (h0 : 0 ≤ a) (hcap : a ≤ s.cfg.stackCapacity - 1) (hwritten : s.slot a ≠ none) (hb : a - 1 = b)
    (hk : ∀ v, s.slot a = some v → k (v, { s with sp := b }) = .error c) :
    (pop { s with sp := a } >>= k) = .error c := by
  obtain ⟨v, hv⟩ := Option.ne_none_iff_exists'.1 hwritten
  have hpop := (pop_ok v { s with sp := a } { s with sp := b }).2 ⟨h0, hcap, hv, by rw [← hb]⟩
  exact (bind_error ..).2 (.inr ⟨_, hpop, hk v hv⟩)

section Header

variable {s : State} {rv : Int} {c : Fatal}

theorem unwindHeader_of_returnAddress_error (hpop : pop { s with sp := s.fp } = .error c) :
    unwindHeader rv { s with sp := s.fp } = .error c := (bind_error ..).2 (.inl hpop)

theorem unwindHeader_of_savedFp_error (h0 : 0 ≤ s.fp) (hcap : s.fp ≤ s.cfg.stackCapacity - 1)
    (hr : s.slot s.fp ≠ none) (hpop : pop { s with sp := s.fp - 1 } = .error c) :
    unwindHeader rv { s with sp := s.fp } = .error c :=
  pop_bind_of_written h0 hcap hr rfl fun _ _ => (bind_error ..).2 (.inl hpop)

theorem unwindHeader_of_count_error (h1 : 1 ≤ s.fp) (hcap : s.fp ≤ s.cfg.stackCapacity - 1)
    (hr : s.slot s.fp ≠ none) (hf : s.slot (s.fp - 1) ≠ none) (hpop : pop { s with sp := s.fp - 2 } = .error c) :
    unwindHeader rv { s with sp := s.fp } = .error c :=
  pop_bind_of_written (by omega) hcap hr rfl fun _ _ =>
    pop_bind_of_written (by omega) (by omega) hf (by omega) fun _ _ => (bind_error ..).2 (.inl hpop)

theorem unwindHeader_of_discard_error {n : Int} (h2 : 2 ≤ s.fp) (hcap : s.fp ≤ s.cfg.stackCapacity - 1)
    (hr : s.slot s.fp ≠ none) (hf : s.slot (s.fp - 1) ≠ none) (hn : s.slot (s.fp - 2) = some n)
    (hdiscard : discardArgs n { s with sp := s.fp - 3 } = .error c) :
    unwindHeader rv { s with sp := s.fp } = .error c := by
  refine pop_bind_of_written (by omega) hcap hr rfl fun _ _ =>
    pop_bind_of_written (b := s.fp - 2) (by omega) (by omega) hf (by omega) fun _ _ =>
    pop_bind_of_written (b := s.fp - 3) (by omega) (by omega) (by simp [hn]) (by omega) fun m hm => ?_
  obtain rfl : n = m := Option.some.inj (hn.symm.trans hm)
  exact (bind_error ..).2 (.inl hdiscard)

/-- RET past its first pop raises what the check of `fp` raises, before it reads the header. -/
theorem faults_of_restoreSp_error (hsp : SpInRange s) (h0 : 0 ≤ s.sp) (htop : s.slot s.sp ≠ none)
    (h : restoreSp { advance .ret s with sp := s.sp - 1 } = .error c) : Faults .ret s c.error c.access c.address :=
  faults_of_pop_then_error rfl (returnFrame_eq_bind (advance .ret s)) hsp h0 htop
    fun _ => (bind_error ..).2 (.inl h)

/-- RET past the check of `fp` raises what the unwinding raises with `sp` at `fp`, whatever the return value. -/
theorem faults_of_unwindHeader_error (hsp : SpInRange s) (h0 : 0 ≤ s.sp) (htop : s.slot s.sp ≠ none)
    (hfp : 0 ≤ s.fp) (hcap : s.fp ≤ s.cfg.stackCapacity - 1)
    (h : ∀ rv, unwindHeader rv { advance .ret s with sp := (advance .ret s).fp } = .error c) :
    Faults .ret s c.error c.access c.address := by
  have hrestore := (restoreSp_ok { advance .ret s with sp := s.sp - 1 } _).2 ⟨hfp, hcap, rfl⟩
  exact faults_of_pop_then_error rfl (returnFrame_eq_bind (advance .ret s)) hsp h0 htop
    fun rv => (bind_error ..).2 (.inr ⟨_, hrestore, h rv⟩)

end Header

/-- Settles O25: with a written header the rule completes; otherwise the first check that fails, in the order of the
rule, is the first pop's, that of `fp`, or one of the unwinding: the return address, the saved `fp`, the count and the
discard of the arguments. -/
theorem retTearsDownTheFrame : Obligations.RetTearsDownTheFrame := by
  refine ⟨rfl, fun s hsp => ⟨fun rv r f n h0 hrv h2 hcap hr hf hn hn0 hle => ?_, ?_, fun h0 htop hout => ?_,
    fun h0 htop hfp hcap => ?_⟩⟩
  · have hrule := (returnFrame_ok (advance .ret s) _).2
      ⟨rv, r, f, n, h0, hsp.2, hrv, h2, hcap, hr, hf, hn, hn0, hle, rfl⟩
    exact completes_of_rule_ok rfl hrule
      ⟨rfl, rfl, rfl, rfl, stackWrittenAt_of_write (a := s.fp - 2 - n) (by omega) rfl, fun _ => rfl, rfl, rfl⟩
  · exact faultsOnPop_of_rule rfl hsp (returnFrame_eq_bind (advance .ret s))
  · exact faults_of_restoreSp_error hsp h0 htop ((restoreSp_error ..).2 ⟨hout, rfl⟩)
  · have raises {c : Fatal} := faults_of_unwindHeader_error (c := c) hsp h0 htop hfp hcap
    refine ⟨fun hr => ?_, fun hfp0 hr => ?_, fun h1 hr hf => ?_, fun hfp1 hr hf => ?_, fun h2 hr hf hn => ?_,
      fun n h2 hr hf hn hout => ?_⟩
    · exact raises fun _ => unwindHeader_of_returnAddress_error (pop_at_unwritten hfp hcap hr)
    · exact raises fun _ => unwindHeader_of_savedFp_error hfp hcap (by simpa [hfp0] using hr)
        (pop_of_empty (by simp [hfp0]))
    · exact raises fun _ => unwindHeader_of_savedFp_error hfp hcap hr
        (pop_at_unwritten (a := s.fp - 1) (by omega) (by dsimp only [advance_cfg]; omega) hf)
    · exact raises fun _ => unwindHeader_of_count_error hfp1.ge hcap (by simpa [hfp1] using hr)
        (by simpa [hfp1] using hf) (pop_of_empty (by simp [hfp1]))
    · exact raises fun _ => unwindHeader_of_count_error (one_le_two.trans h2) hcap hr hf
        (pop_at_unwritten (a := s.fp - 2) (by omega) (by dsimp only [advance_cfg]; omega) hn)
    · have hdiscard : discardArgs n { advance .ret s with sp := s.fp - 3 } =
          .error (.outOfBounds .argDiscard (s.fp - 3 - n)) :=
        (discardArgs_error ..).2 ⟨by dsimp only; omega, rfl⟩
      exact raises fun _ => unwindHeader_of_discard_error h2 hcap hr hf hn hdiscard

end Sys2Proof.Machine
end

section
/-! PROOF. The end of a run: HALT (spec/45_termination.md R150), after which no step follows (spec/30_encoding.md R70). -/

namespace Sys2Proof.Machine

/-- Only a RUNNING state has a step (R70). -/
theorem running_of_step_next {s t : State} (h : step s = .next t) : s.status.state = .running :=
  ((step_next s t).1 h).1

theorem haltRun_not_running (cause : HaltCause) (a : Int) (s : State) :
    (haltRun cause a s).status.state ≠ .running := by simp

/-- However a run is halted (R71, R150), no step follows. -/
theorem step_haltRun_ne_next (cause : HaltCause) (a : Int) (s u : State) : step (haltRun cause a s) ≠ .next u :=
  fun h => haltRun_not_running cause a s (running_of_step_next h)

/-- Settles O26: HALT's rule always completes, with the halt recorded over the advanced state at the address of the
opcode cell. -/
theorem haltEndsTheRun : Obligations.HaltEndsTheRun := by
  refine ⟨rfl, fun s => ?_⟩
  have hexec : exec .halt s = perform .halt (fun t => .ok (haltRun .haltInstr s.ip t)) s := rfl
  exact completes_of_rule_ok hexec rfl
    ⟨rfl, rfl, rfl, rfl, rfl, rfl, fun _ => rfl, fun _ => rfl, step_haltRun_ne_next _ _ _⟩

end Sys2Proof.Machine
end

section
/-! PROOF. The fatal conditions of a step: what they leave unchanged, what STATUS records of them, and when Overflow is
among them (spec/60_exceptions.md R163, R164, R170). -/

namespace Sys2Proof.Machine

/-! ### The opcode cell and the fetch -/

/-- The value of the opcode cell of the step, as R164 has it recorded: none where the address is below 0. -/
def opcodeCell (s : State) : Option Int := if s.ip < 0 then none else s.cfg.code[s.ip.toNat]?

theorem opcodeCell_of_neg {s : State} (h : s.ip < 0) : opcodeCell s = none := if_pos h

theorem opcodeCell_of_nonneg {s : State} (h : 0 ≤ s.ip) : opcodeCell s = s.cfg.code[s.ip.toNat]? :=
  if_neg (not_lt.2 h)

/-- The fetch finds no fatal condition but a code address out of bounds, and an instruction or an unknown opcode only
with the opcode cell's value (R71 to R73). -/
theorem fetch_cases (s : State) :
    fetch s = .endOfCode ∨
    (∃ i, fetch s = .instr i ∧ opcodeCell s = some (s.cfg.opcodes.number i.opcode)) ∨
    (∃ op, fetch s = .unknown op ∧ opcodeCell s = some op) ∨
    (∃ a, fetch s = .fatal (opcodeCell s) (.outOfBounds .codeFetch a)) := by
  rcases lt_or_ge s.ip 0 with hneg | h0
  · exact .inr (.inr (.inr ⟨s.ip, opcodeCell_of_neg hneg ▸ fetch_of_neg hneg⟩))
  have hcell := opcodeCell_of_nonneg h0
  cases hop : s.cfg.code[s.ip.toNat]? with
  | none =>
    have hend : s.cfg.len ≤ s.ip := Int.le_trans (Int.ofNat_le.2 (List.getElem?_eq_none_iff.1 hop)) (by omega)
    exact .inl ((fetch_endOfCode s).2 ⟨h0, hend⟩)
  | some op =>
    rw [hop] at hcell
    cases hfind : s.cfg.opcodes.find op with
    | none => exact .inr (.inr (.inl ⟨op, fetch_of_find_none h0 hop hfind, hcell⟩))
    | some o =>
      obtain ⟨i, rfl, hfetch⟩ | ⟨j, -, -, hfetch⟩ := fetch_of_find_some h0 hop hfind
      · exact .inr (.inl ⟨i, hfetch, by rw [hcell, number_of_find hfind]⟩)
      · exact .inr (.inr (.inr ⟨_, hcell ▸ hfetch⟩))

/-! ### What a step does to STATUS -/

/-- An execute rule that completes leaves `STATUS` alone, but for HALT's. -/
theorem ruleOf_keeps_status {a : Int} {i : Instr} {s t : State} (hi : i ≠ .halt) (h : ruleOf a i s = .ok t) :
    t.status = s.status := by
  cases i with
  | invalid => cases h; rfl
  | iadd | isub | imul =>
    rw [ruleOf, arithmetic_ok] at h
    obtain ⟨_, _, -, -, -, -, -, rfl⟩ := h; rfl
  | ilt | ieq =>
    rw [ruleOf, comparison_ok] at h
    obtain ⟨_, _, -, -, -, -, rfl⟩ := h; rfl
  | br target => cases h; rfl
  | brt target | brf target => obtain ⟨_, -, -, -, rfl⟩ := (branchOn_ok ..).1 h; rfl
  | iconst literal => obtain ⟨-, -, rfl⟩ := (push_ok ..).1 h; rfl
  | load offset => obtain ⟨_, -, -, -, -, rfl⟩ := (loadFrame_ok ..).1 h; rfl
  | gload addr => obtain ⟨_, -, -, -, -, -, rfl⟩ := (loadGlobal_ok ..).1 h; rfl
  | store offset => obtain ⟨_, -, -, -, -, rfl⟩ := (storeFrame_ok ..).1 h; rfl
  | gstore addr => obtain ⟨_, -, -, -, -, -, rfl⟩ := (storeGlobal_ok ..).1 h; rfl
  | puts => obtain ⟨_, -, -, -, rfl⟩ := (output_ok ..).1 h; rfl
  | pop => obtain ⟨-, rfl⟩ := (discard_ok ..).1 h; rfl
  | call target n => obtain ⟨-, -, rfl⟩ := (callFrame_ok ..).1 h; rfl
  | ret => obtain ⟨_, _, _, _, -, -, -, -, -, -, -, -, -, -, rfl⟩ := (returnFrame_ok ..).1 h; rfl
  | halt => exact absurd rfl hi

/-- A step that raises nothing: `STATUS` records no error it did not record before, and the run goes on or is
halted. -/
def EndsWithoutError (s t : State) : Prop :=
  t.status.error = s.status.error ∧ (t.status.state = .running ∨ t.status.state = .halted)

theorem endsWithoutError_of_rule_ok {i : Instr} {s t : State} (hs : s.status.state = .running)
    (h : ruleOf s.ip i (advance i s) = .ok t) : EndsWithoutError s t := by
  by_cases hi : i = .halt
  · subst hi; cases h; exact ⟨rfl, .inr rfl⟩
  · have hstatus : t.status = s.status :=
      (ruleOf_keeps_status hi h).trans (advance_status i s)
    exact ⟨congrArg Status.error hstatus, .inl (hstatus ▸ hs)⟩

/-- The fatal conditions a step can raise from `s`: a fetch out of bounds, or what an execute rule raises. -/
def Raised (s : State) (c : Fatal) : Prop :=
  (∃ a, c = .outOfBounds .codeFetch a) ∨ ∃ i, ruleOf s.ip i (advance i s) = .error c

/-- A step raises nothing, or takes the unknown opcode, or takes a fatal condition; either of these is taken from the
state at the start of the step, with the value of its opcode cell (R164, R170). -/
theorem step_cases {s t : State} (h : step s = .next t) :
    EndsWithoutError s t ∨
    (∃ op, opcodeCell s = some op ∧ t = takeUnknownOpcode op s) ∨
    (∃ c, Raised s c ∧ t = takeFatal (opcodeCell s) c s) := by
  have hs := running_of_step_next h
  obtain hfetch | ⟨i, hfetch, hcell⟩ | ⟨op, hfetch, hcell⟩ | ⟨a, hfetch⟩ := fetch_cases s
  · cases (step_of_endOfCode hs hfetch).symm.trans h
    exact .inl ⟨rfl, .inr rfl⟩
  · have hexec : exec i s = .next t := (step_of_instr hs hfetch).symm.trans h
    obtain ⟨rfl, rfl⟩ | ⟨-, hrule | ⟨c, hrule, rfl⟩⟩ := (exec_next ..).1 hexec
    · exact .inr (.inl ⟨_, hcell, rfl⟩)
    · exact .inl (endsWithoutError_of_rule_ok hs hrule)
    · exact .inr (.inr ⟨c, .inr ⟨i, hrule⟩, by rw [hcell]⟩)
  · cases (step_of_unknown hs hfetch).symm.trans h
    exact .inr (.inl ⟨op, hcell, rfl⟩)
  · cases (step_of_fatal hs hfetch).symm.trans h
    exact .inr (.inr ⟨_, .inl ⟨a, rfl⟩, rfl⟩)

/-- A step that ends in FAULT or INVALID is one of the two ways of taking a condition. -/
theorem taken_of_fatal_step {s t : State} (h : step s = .next t)
    (hend : t.status.state = .fault ∨ t.status.state = .invalid) :
    (∃ op, opcodeCell s = some op ∧ t = takeUnknownOpcode op s) ∨
    (∃ c, Raised s c ∧ t = takeFatal (opcodeCell s) c s) := by
  refine (step_cases h).resolve_left ?_
  rintro ⟨-, hstate | hstate⟩ <;> simp [hstate] at hend

/-- Settles O42: either way of taking a condition writes `STATUS` over the state at the start of the step. -/
theorem fatalConditionsArePrecise : Obligations.FatalConditionsArePrecise := by
  intro s t h hend
  obtain ⟨op, -, rfl⟩ | ⟨c, -, rfl⟩ := taken_of_fatal_step h hend <;>
    exact ⟨rfl, rfl, rfl, rfl, rfl, rfl, rfl⟩

/-- UnknownOpcode is no condition that ends in FAULT (R160, R164). -/
theorem error_ne_unknownOpcode (c : Fatal) : c.error ≠ .unknownOpcode := by cases c <;> simp [Fatal.error]

/-- Settles O43: either way of taking a condition records `ip` and the opcode cell, and INVALID goes with the unknown
opcode alone. -/
theorem fatalConditionsRecordTheOpcodeCell : Obligations.FatalConditionsRecordTheOpcodeCell := by
  intro s t h hend
  obtain ⟨op, hcell, rfl⟩ | ⟨c, -, rfl⟩ := taken_of_fatal_step h hend
  · exact ⟨rfl, hcell.symm, rfl, by simp⟩
  · exact ⟨rfl, rfl, rfl, by simp [error_ne_unknownOpcode]⟩

/-! ### Overflow

Only the range test of the arithmetic rule raises it (R163): every access to a memory raises a condition with an
address. -/

theorem push_ne_overflow (v : Int) (s : State) : push v s ≠ .error .overflow := by simp [push_error]

theorem pop_ne_overflow (s : State) : pop s ≠ .error .overflow := by simp [pop_error]

/-- A rule that begins with a pop raises Overflow only by what it goes on with. -/
theorem pop_bind_overflow {s : State} {k : Int × State → Except Fatal State}
    (h : pop s >>= k = .error .overflow) : ∃ p, k p = .error .overflow := by
  obtain hpop | ⟨p, -, hk⟩ := (bind_error ..).1 h
  · exact absurd hpop (pop_ne_overflow s)
  · exact ⟨p, hk⟩

theorem arithmetic_overflow_finite {f : Int → Int → Int} {s : State} (h : arithmetic f s = .error .overflow) :
    s.cfg.cellBits ≠ .unbounded := by
  intro hbits
  rw [arithmetic_eq_bind] at h
  obtain ⟨top, htop⟩ := pop_bind_overflow h
  obtain ⟨below, hbelow⟩ := pop_bind_overflow htop
  simp [hbits, inRange, push_ne_overflow] at hbelow

theorem comparison_ne_overflow (f : Int → Int → Bool) (s : State) : comparison f s ≠ .error .overflow := by
  intro h
  rw [comparison_eq_bind] at h
  obtain ⟨top, htop⟩ := pop_bind_overflow h
  obtain ⟨below, hbelow⟩ := pop_bind_overflow htop
  exact push_ne_overflow _ _ hbelow

theorem branchOn_ne_overflow (taken target : Int) (s : State) : branchOn taken target s ≠ .error .overflow := by
  intro h
  rw [branchOn_eq_bind] at h
  obtain ⟨top, htop⟩ := pop_bind_overflow h
  split at htop <;> cases htop

theorem callFrame_ne_overflow (target n : Int) (s : State) : callFrame target n s ≠ .error .overflow := by
  simp [callFrame_eq_bind, bind_error, push_ne_overflow]

theorem returnFrame_ne_overflow (s : State) : returnFrame s ≠ .error .overflow := by
  simp [returnFrame_eq_bind, unwindHeader, bind_error, pop_ne_overflow, push_ne_overflow, restoreSp_error,
    discardArgs_error]

/-- An execute rule raises Overflow only with a finite `CELL_BITS`. -/
theorem ruleOf_overflow_finite {a : Int} {i : Instr} {s : State} (h : ruleOf a i s = .error .overflow) :
    s.cfg.cellBits ≠ .unbounded := by
  cases i with
  | iadd | isub | imul => exact arithmetic_overflow_finite h
  | ilt | ieq => rw [ruleOf] at h; exact absurd h (comparison_ne_overflow _ s)
  | invalid | br target | halt => cases h
  | brt target | brf target => exact absurd h (branchOn_ne_overflow _ target s)
  | iconst literal => exact absurd h (push_ne_overflow literal s)
  | load offset => simp [ruleOf, loadFrame, bind_error, readFrame_error, push_ne_overflow] at h
  | gload addr => simp [ruleOf, loadGlobal, bind_error, readGlobal_error, push_ne_overflow] at h
  | store offset =>
    rw [ruleOf, storeFrame_eq_bind] at h
    obtain ⟨top, htop⟩ := pop_bind_overflow h
    simp [writeFrame_error] at htop
  | gstore addr =>
    rw [ruleOf, storeGlobal_eq_bind] at h
    obtain ⟨top, htop⟩ := pop_bind_overflow h
    simp [writeGlobal_error] at htop
  | puts =>
    rw [ruleOf, output_eq_bind] at h
    obtain ⟨top, htop⟩ := pop_bind_overflow h
    cases htop
  | pop =>
    rw [ruleOf, discard_eq_bind] at h
    obtain ⟨top, htop⟩ := pop_bind_overflow h
    cases htop
  | call target n => exact absurd h (callFrame_ne_overflow target n s)
  | ret => exact absurd h (returnFrame_ne_overflow s)

theorem fatal_error_overflow (c : Fatal) : c.error = .overflow ↔ c = .overflow := by cases c <;> simp [Fatal.error]

/-- Settles O47: with no error recorded before it, only a step that takes Overflow records it, and only an execute
rule raises it. -/
theorem overflowNeedsFiniteCells : Obligations.OverflowNeedsFiniteCells := by
  intro s t hs h herr
  obtain ⟨hkept, -⟩ | ⟨op, -, rfl⟩ | ⟨c, hc, rfl⟩ := step_cases h
  · rw [hkept, hs] at herr; cases herr
  · cases herr
  · obtain rfl : c = .overflow := (fatal_error_overflow c).1 (Option.some.inj herr)
    obtain ⟨a, hfetch⟩ | ⟨i, hrule⟩ := hc
    · cases hfetch
    · have hfinite := ruleOf_overflow_finite hrule
      rw [advance_cfg] at hfinite
      exact ⟨rfl, rfl, hfinite⟩

end Sys2Proof.Machine
end

section
/-! PROOF. The host's text of the output trace (spec/60_exceptions.md R180). -/

namespace Sys2Proof.Machine

/-- `ds` are the decimal digits of `n`, the most significant first, with no leading zero. -/
def IsDecimal (ds : List Nat) (n : Nat) : Prop :=
  (∀ d ∈ ds, d < 10) ∧ (ds.head? = some 0 → ds = [0]) ∧ ds ≠ [] ∧ ds.foldl (fun n d => 10 * n + d) 0 = n

theorem isDecimal_singleton {d : Nat} (h : d < 10) : IsDecimal [d] d := by simp [IsDecimal, h]

/-- One more digit after those of a positive number, which begin with no zero. -/
theorem isDecimal_concat {ds : List Nat} {n d : Nat} (h : IsDecimal ds n) (hn : 0 < n) (hd : d < 10) :
    IsDecimal (ds ++ [d]) (10 * n + d) := by
  obtain ⟨hlt, hhead, hne, hvalue⟩ := h
  have hlead : ds.head? ≠ some 0 := by
    intro h0
    rw [hhead h0] at hvalue
    exact hn.ne hvalue
  refine ⟨?_, fun h0 => ?_, by simp, by simp [hvalue]⟩
  · simpa [or_imp, forall_and, hd] using hlt
  · rw [List.head?_append_of_ne_nil _ hne] at h0
    exact absurd h0 hlead

/-- With more fuel than the number, the digits are complete: dividing by ten lowers both. -/
theorem decimalDigits_isDecimal {fuel n : Nat} (h : n < fuel) :
    ∃ ds, IsDecimal ds n ∧ decimalDigits fuel n = ds.map Nat.digitChar := by
  induction fuel generalizing n with
  | zero => exact absurd h n.not_lt_zero
  | succ fuel ih =>
    by_cases hn : n < 10
    · exact ⟨[n], isDecimal_singleton hn, by simp [decimalDigits, hn]⟩
    · obtain ⟨ds, hds, hchars⟩ := ih (n := n / 10) (by omega)
      have hdigits := isDecimal_concat hds (by omega) (Nat.mod_lt n (by omega))
      rw [Nat.div_add_mod] at hdigits
      exact ⟨ds ++ [n % 10], hdigits, by simp [decimalDigits, hn, hchars]⟩

theorem decimalText_eq (v : Int) :
    decimalText v = (if v < 0 then ['-'] else []) ++ decimalDigits (v.natAbs + 1) v.natAbs := by
  unfold decimalText; split <;> rfl

/-- Settles O60: the sign, then the digits of the absolute value; and the lines are laid end to end. -/
theorem outputLinesAreDecimal : Obligations.OutputLinesAreDecimal := by
  refine ⟨fun v => ?_, fun o v => by simp [renderOutput]⟩
  obtain ⟨ds, ⟨hlt, hhead, hne, hvalue⟩, hchars⟩ := decimalDigits_isDecimal v.natAbs.lt_add_one
  refine ⟨ds, hlt, hhead, hne, hvalue, ?_⟩
  rw [outputLine, decimalText_eq, hchars, ← List.append_assoc]

end Sys2Proof.Machine
end

section
/-! PROOF. What a launch sets and when its check fails (spec/70_reset_and_hazards.md R190, R193), and that every RUNNING
state has exactly one next state (R198). -/

namespace Sys2Proof.Machine

/-! ### The launch check -/

theorem launchStatus_of_ok {c : Config} (h : launchOk c = true) : launchStatus c = Status.ofRunning := if_pos h

theorem launchStatus_of_not_ok {c : Config} (h : launchOk c = false) :
    launchStatus c = { Status.ofRunning with state := .malformed, error := some .malformedProgram } :=
  if_neg (by simp [h])

theorem launchStatus_malformed_iff (c : Config) : (launchStatus c).state = .malformed ↔ launchOk c = false := by
  cases h : launchOk c with
  | false => simp [launchStatus_of_not_ok h]
  | true => simp [launchStatus_of_ok h, Status.ofRunning]

/-- Only a finite width leaves an integer out of the cell values (R12). -/
theorem exists_not_inRange_iff (cb : CellBits) (code : List Int) :
    (∃ v ∈ code, inRange cb v = false) ↔ ∃ w v, cb = .bits w ∧ v ∈ code ∧ inRange (.bits w) v = false := by
  cases cb with
  | unbounded => simp [inRange]
  | bits w => simp

/-- The launch check fails exactly under one of R193's four conditions. -/
theorem launchOk_eq_false_iff (c : Config) :
    launchOk c = false ↔
      (c.startIp < 0 ∨ c.len - 1 < c.startIp) ∨ c.stackCapacity ≤ 0 ∨ c.globalsSize < 0 ∨
        ∃ w v, c.cellBits = .bits w ∧ v ∈ c.code ∧ inRange (.bits w) v = false := by
  have hentry : ¬ (0 ≤ c.startIp ∧ c.startIp ≤ c.len - 1) ↔ c.startIp < 0 ∨ c.len - 1 < c.startIp := by omega
  rw [← exists_not_inRange_iff, ← hentry]
  simp only [launchOk, Bool.and_eq_false_iff, decide_eq_false_iff_not, List.all_eq_false, Bool.not_eq_true, not_lt,
    not_le, or_assoc]

/-- Settles O35: `STATUS` alone depends on the launch check. -/
theorem launchSetsTheResetValues : Obligations.LaunchSetsTheResetValues := fun c =>
  ⟨rfl, rfl, rfl, rfl, launch_slot c, launch_global c, rfl, launchStatus_of_ok, launchStatus_of_not_ok⟩

/-- Settles O36: a launch is MALFORMED exactly when its check fails; the reset values are those of every launch, and
only a RUNNING state has a step. -/
theorem launchCheckRefusesExactly : Obligations.LaunchCheckRefusesExactly := by
  intro c
  have hcheck := launchStatus_malformed_iff c
  refine ⟨hcheck.trans (launchOk_eq_false_iff c), fun hmalformed => ?_⟩
  have hnostep (t : State) : step (State.launch c) ≠ .next t := fun h => by
    cases hmalformed.symm.trans (running_of_step_next h)
  obtain ⟨-, hip, hsp, hfp, hslot, hglobal, hout, -, hstatus⟩ := launchSetsTheResetValues c
  exact ⟨hstatus (hcheck.1 hmalformed), hip, hsp, hfp, hslot, hglobal, hout, hnostep⟩

/-! ### The next state -/

/-- The execute stage answers a next state for every instruction in every state. -/
theorem exists_exec_next (i : Instr) (s : State) : ∃ t, exec i s = .next t := by
  by_cases hi : i = .invalid
  · exact ⟨_, (exec_next ..).2 (.inl ⟨hi, rfl⟩)⟩
  · cases hrule : ruleOf s.ip i (advance i s) with
    | ok t => exact ⟨t, (exec_next ..).2 (.inr ⟨hi, .inl hrule⟩)⟩
    | error c => exact ⟨_, (exec_next ..).2 (.inr ⟨hi, .inr ⟨c, hrule, rfl⟩⟩)⟩

/-- A RUNNING state has a next state, whatever the fetch finds (R70). -/
theorem exists_step_next {s : State} (hs : s.status.state = .running) : ∃ t, step s = .next t := by
  cases hfetch : fetch s with
  | instr i => rw [step_of_instr hs hfetch]; exact exists_exec_next i s
  | endOfCode => exact ⟨_, step_of_endOfCode hs hfetch⟩
  | unknown op => exact ⟨_, step_of_unknown hs hfetch⟩
  | fatal op c => exact ⟨_, step_of_fatal hs hfetch⟩

/-- Settles O40: a next state exists, and it is the only one because `step` is a function. -/
theorem runningStateHasOneNextState : Obligations.RunningStateHasOneNextState := by
  intro s hs
  obtain ⟨t, ht⟩ := exists_step_next hs
  exact ⟨t, ht, fun u hu => Host.Outcome.next.inj (hu.symm.trans ht)⟩

end Sys2Proof.Machine
end

section
/-! PROOF. The round trip of the encoder and the decoder, and the operand cells a fetch reads (spec/30_encoding.md R60 to
R62, R73, R74). -/

namespace Sys2Proof

/-- The decoder reads an instruction exactly where an opcode cell of that instruction's entry stands before its
operands. -/
theorem decode_ok (m : OpcodeMap) (cells rest : List Int) (i : Instr) :
    decode m cells = .ok (i, rest) ↔ ∃ op, m.find op = some i.opcode ∧ cells = op :: (i.operands ++ rest) := by
  cases cells with
  | nil => simp [decode]
  | cons op tail =>
    cases hfind : m.find op with
    | none => simp [decode_of_find_none hfind, hfind]
    | some o =>
      rw [decode_of_find_some hfind, decodeOperands_ok]
      simp [hfind, eq_comm]

/-- Settles O1: the opcode cell is looked up as the opcode it numbers, because the map is injective. -/
theorem decodeOfEncodeIsTheInstruction : Obligations.DecodeOfEncodeIsTheInstruction := fun m i _ hm =>
  (decode_ok ..).2 ⟨m.number i.opcode, find_number hm i.opcode, rfl⟩

/-- Settles O2: whatever entry an opcode cell is looked up as, the cell is the number of that entry. -/
theorem decodedCellsAreTheEncoding : Obligations.DecodedCellsAreTheEncoding := by
  intro m cells i rest h
  obtain ⟨op, hfind, rfl⟩ := (decode_ok ..).1 h
  rw [encode, number_of_find hfind]
  rfl

/-- More cells after an instruction change neither the instruction nor its length. -/
theorem decode_append {m : OpcodeMap} {cells rest : List Int} {i : Instr} (h : decode m cells = .ok (i, rest))
    (more : List Int) : decode m (cells ++ more) = .ok (i, rest ++ more) := by
  obtain ⟨op, hfind, rfl⟩ := (decode_ok ..).1 h
  exact (decode_ok ..).2 ⟨op, hfind, by simp⟩

theorem length_operands (i : Instr) : i.operands.length = i.opcode.arity := by cases i <;> rfl

/-- Settles O4: each sample is one lookup in the table of R63 and one operand fetch. -/
theorem sampleCellsDecode : Obligations.SampleCellsDecode := by
  refine ⟨?_, ?_, ?_, ?_, ?_, ?_, ?_⟩ <;> rfl

end Sys2Proof

namespace Sys2Proof.Machine

/-! ### The fetch of an instruction -/

/-- Settles O5: cells at `ip` that decode are what the fetch answers, and the step adds nothing to their execution. -/
theorem stepRunsTheDecodedInstruction : Obligations.StepRunsTheDecodedInstruction :=
  fun s i rest hs h0 hdecode _ => step_of_instr hs ((fetch_instr s i).2 ⟨h0, rest, hdecode⟩)

/-- With every operand cell inside CODE, the fetch reads the instruction of the opcode cell, with those cells. -/
theorem fetch_of_operands {s : State} {op : Int} {o : Opcode} (h0 : 0 ≤ s.ip)
    (hop : s.cfg.code[s.ip.toNat]? = some op) (hfind : s.cfg.opcodes.find op = some o)
    (hin : s.ip + o.arity < s.cfg.len) :
    ∃ i, i.opcode = o ∧ fetch s = .instr i ∧
      i.operands = (s.cfg.code.drop (s.ip.toNat + 1)).take o.arity := by
  have hcells : codeFrom (s.ip + 1) s = s.cfg.code.drop (s.ip.toNat + 1) := by
    rw [codeFrom, Int.toNat_add h0 (by decide)]; rfl
  have hdecode : decode s.cfg.opcodes (codeFrom s.ip s) = decodeOperands op o (s.cfg.code.drop (s.ip.toNat + 1)) := by
    rw [codeFrom_ip h0 hop, decode_of_find_some hfind, hcells]
  rcases hoperands : decodeOperands op o (s.cfg.code.drop (s.ip.toNat + 1)) with e | ⟨i, r⟩
  · obtain ⟨hshort, -⟩ := (decodeOperands_error ..).1 hoperands
    rw [List.length_drop] at hshort
    unfold Config.len at hin
    omega
  · obtain ⟨rfl, hread⟩ := (decodeOperands_ok ..).1 hoperands
    exact ⟨i, rfl, (fetch_instr s i).2 ⟨h0, r, hdecode.trans hoperands⟩,
      by rw [hread, ← length_operands, List.take_left]⟩

/-- Settles O8: the fetch reads the operand cells, or faults at the first one past the end of code. -/
theorem operandFetchReadsTheCellsOrFaults : Obligations.OperandFetchReadsTheCellsOrFaults := by
  intro s op o hs h0 hop hfind
  refine ⟨fun hin => ?_, fun j h1 hj hlen => ?_⟩
  · obtain ⟨i, ho, hfetch, hread⟩ := fetch_of_operands h0 hop hfind hin
    exact ⟨i, ho, step_of_instr hs hfetch, hread⟩
  · exact ⟨_, step_of_fatal hs (fetch_of_truncated h0 hop hfind h1 hj hlen), takeFatal_faultedFrom ..⟩

/-- A fetched instruction stands in CODE whole, its encoding from `ip` on. -/
theorem codeFrom_of_fetch {s : State} {i : Instr} (h : fetch s = .instr i) :
    0 ≤ s.ip ∧ ∃ rest, codeFrom s.ip s = encode s.cfg.opcodes i ++ rest := by
  obtain ⟨h0, rest, hdecode⟩ := (fetch_instr s i).1 h
  exact ⟨h0, rest, decodedCellsAreTheEncoding _ _ _ _ hdecode⟩

theorem operands_mem_code {s : State} {i : Instr} (h : fetch s = .instr i) {v : Int} (hv : v ∈ i.operands) :
    v ∈ s.cfg.code := by
  obtain ⟨-, rest, hcells⟩ := codeFrom_of_fetch h
  refine List.mem_of_mem_drop (i := s.ip.toNat) ?_
  rw [← codeFrom, hcells]
  simp [encode, hv]

/-- The cell after a fetched instruction is at most the end of code. -/
theorem next_ip_le_len {s : State} {i : Instr} (h : fetch s = .instr i) : s.ip + i.length ≤ s.cfg.len := by
  obtain ⟨h0, rest, hcells⟩ := codeFrom_of_fetch h
  have hlen := congrArg List.length hcells
  simp only [codeFrom, encode, List.length_drop, List.length_append, List.length_cons, length_operands] at hlen
  simp only [Config.len, Instr.length]
  omega

/-! ### Cells placed at the fetch address -/

/-- From the address they are placed at, the placed cells come first. -/
theorem drop_placeCells (code cells : List Int) (a : Nat) :
    (placeCells code a cells).drop a = cells ++ code.drop (a + cells.length) := by
  have hbefore : ((code.take a).rightpad a 0).length = a := by
    rw [List.length_rightpad, List.length_take]
    omega
  rw [placeCells, List.append_assoc, List.drop_left' hbefore]

/-- Settles O38: the placed cells decode to what the table entry alone decodes to. -/
theorem placedTableEntryRunsNext : Obligations.PlacedTableEntryRunsNext := by
  intro s nbits w i h
  have hdecode : ∃ rest, decode standardOpcodes (tableCells nbits w) = .ok (i, rest) := by
    unfold decodeTableWord at h
    split at h
    · rename_i j rest hj
      exact ⟨rest, Option.some.inj h ▸ hj⟩
    · cases h
  obtain ⟨rest, hrest⟩ := hdecode
  have hcells : codeFrom (s.withFetchWord nbits w).ip (s.withFetchWord nbits w) =
      tableCells nbits w ++ s.cfg.code.drop (s.ip.toNat + 3) := drop_placeCells ..
  exact step_of_instr rfl ((fetch_instr _ i).2 ⟨Int.natCast_nonneg _, _, hcells ▸ decode_append hrest _⟩)

end Sys2Proof.Machine
end

section
/-! PROOF. What an execute rule that completes has done, and what a step has done, said once; the statements about every
step that follow read it off (spec/30_encoding.md R74). -/

namespace Sys2Proof.Machine

/-- The effects of the execute rules on the state `s` they begin in, `ip` advanced and the opcode cell at `a`. It says of
each written value only where it comes from. -/
inductive RuleEffect (a : Int) (s : State) : Instr → State → Prop
  /-- IADD to IEQ (R100 to R104): a value in range, or a truth value, in place of the top two cells. -/
  | combines {i : Instr} (v : Int) (hv : inRange s.cfg.cellBits v = true ∨ ∃ b, v = truthWord b)
      (h1 : 1 ≤ s.sp) (hcap : s.sp ≤ s.cfg.stackCapacity - 1) :
      RuleEffect a s i { s with sp := s.sp - 1, stack := s.stack.write (s.sp - 1).toNat v }
  /-- ICONST, LOAD, GLOAD (R120 to R122): an operand, or the content of a cell, above the top. -/
  | pushes {i : Instr} (v : Int) (hv : v ∈ i.operands ∨ (∃ b, s.slot b = some v) ∨ ∃ b, s.global b = some v)
      (hlow : -1 ≤ s.sp) (hfree : s.sp < s.cfg.stackCapacity - 1) :
      RuleEffect a s i { s with sp := s.sp + 1, stack := s.stack.write (s.sp + 1).toNat v }
  /-- BR (R110). -/
  | jumps (target : Int) : RuleEffect a s (.br target) (jump target s)
  /-- BRT, BRF (R111, R112): a pop, and `ip` at the target or where it was. -/
  | branches {i : Instr} (hi : i.opcode = .brt ∨ i.opcode = .brf) (dest : Int) (h0 : 0 ≤ s.sp)
      (hcap : s.sp ≤ s.cfg.stackCapacity - 1) : RuleEffect a s i { s with sp := s.sp - 1, ip := dest }
  /-- POP (R126). -/
  | discards (h0 : 0 ≤ s.sp) (hcap : s.sp ≤ s.cfg.stackCapacity - 1) :
      RuleEffect a s .pop { s with sp := s.sp - 1 }
  /-- STORE (R123). -/
  | stores (offset v : Int) (hv : s.slot s.sp = some v) (h0 : 0 ≤ s.fp + offset) (hlive : s.fp + offset ≤ s.sp - 1)
      (hcap : s.sp ≤ s.cfg.stackCapacity - 1) :
      RuleEffect a s (.store offset) { s with sp := s.sp - 1, stack := s.stack.write (s.fp + offset).toNat v }
  /-- GSTORE (R124). -/
  | storesGlobal (addr v : Int) (hv : s.slot s.sp = some v) (h0 : 0 ≤ s.sp) (hcap : s.sp ≤ s.cfg.stackCapacity - 1)
      (hlow : 0 ≤ addr) (hin : addr ≤ s.cfg.globalsSize - 1) :
      RuleEffect a s (.gstore addr) { s with sp := s.sp - 1, globals := s.globals.write addr.toNat v }
  /-- PUTS (R125). -/
  | outputs (v : Int) (hv : s.slot s.sp = some v) (h0 : 0 ≤ s.sp) (hcap : s.sp ≤ s.cfg.stackCapacity - 1) :
      RuleEffect a s .puts { s with sp := s.sp - 1, out := s.out ++ [v] }
  /-- CALL (R140). -/
  | calls (target n : Int) (hlow : -1 ≤ s.sp) (hroom : s.sp ≤ s.cfg.stackCapacity - 4) :
      RuleEffect a s (.call target n)
        { s with
          sp := s.sp + 3
          fp := s.sp + 3
          ip := target
          stack := ((s.stack.write (s.sp + 1).toNat n).write (s.sp + 2).toNat s.fp).write (s.sp + 3).toNat s.ip }
  /-- RET (R141). -/
  | returns (rv r f n : Int) (hrv : s.slot s.sp = some rv) (hcap : s.fp ≤ s.cfg.stackCapacity - 1)
      (hr : s.slot s.fp = some r) (hf : s.slot (s.fp - 1) = some f) (hn0 : 0 ≤ n) (hn : n ≤ s.fp - 2) :
      RuleEffect a s .ret
        { s with sp := s.fp - 2 - n, fp := f, ip := r, stack := s.stack.write (s.fp - 2 - n).toNat rv }
  /-- HALT (R150). -/
  | halts : RuleEffect a s .halt (haltRun .haltInstr a s)

theorem ruleEffect_of_ok {a : Int} {i : Instr} {s t : State} (hi : i ≠ .invalid) (h : ruleOf a i s = .ok t) :
    RuleEffect a s i t := by
  cases i with
  | invalid => exact absurd rfl hi
  | iadd | isub | imul =>
    rw [ruleOf, arithmetic_ok] at h
    obtain ⟨_, _, h1, hcap, -, -, hv, rfl⟩ := h
    exact .combines _ (.inl hv) h1 hcap
  | ilt | ieq =>
    rw [ruleOf, comparison_ok] at h
    obtain ⟨_, _, h1, hcap, -, -, rfl⟩ := h
    exact .combines _ (.inr ⟨_, rfl⟩) h1 hcap
  | br target => cases h; exact .jumps target
  | brt target =>
    obtain ⟨_, h0, hcap, -, rfl⟩ := (branchOn_ok ..).1 h
    exact .branches (.inl rfl) _ h0 hcap
  | brf target =>
    obtain ⟨_, h0, hcap, -, rfl⟩ := (branchOn_ok ..).1 h
    exact .branches (.inr rfl) _ h0 hcap
  | iconst literal =>
    obtain ⟨hlow, hfree, rfl⟩ := (push_ok ..).1 h
    exact .pushes literal (.inl (List.mem_singleton.2 rfl)) hlow hfree
  | load offset =>
    obtain ⟨v, h0, hlive, hfree, hv, rfl⟩ := (loadFrame_ok ..).1 h
    exact .pushes v (.inr (.inl ⟨_, hv⟩)) (by omega) hfree
  | gload addr =>
    obtain ⟨v, -, -, hv, hlow, hfree, rfl⟩ := (loadGlobal_ok ..).1 h
    exact .pushes v (.inr (.inr ⟨_, hv⟩)) hlow hfree
  | store offset =>
    obtain ⟨v, h0, hlive, hcap, hv, rfl⟩ := (storeFrame_ok ..).1 h
    exact .stores offset v hv h0 hlive hcap
  | gstore addr =>
    obtain ⟨v, h0, hcap, hv, hlow, hin, rfl⟩ := (storeGlobal_ok ..).1 h
    exact .storesGlobal addr v hv h0 hcap hlow hin
  | puts =>
    obtain ⟨v, h0, hcap, hv, rfl⟩ := (output_ok ..).1 h
    exact .outputs v hv h0 hcap
  | pop =>
    obtain ⟨⟨_, h0, hcap, -⟩, rfl⟩ := (discard_ok ..).1 h
    exact .discards h0 hcap
  | call target n =>
    obtain ⟨hlow, hroom, rfl⟩ := (callFrame_ok ..).1 h
    exact .calls target n hlow hroom
  | ret =>
    obtain ⟨rv, r, f, n, -, -, hrv, -, hcap, hr, hf, -, hn0, hn, rfl⟩ := (returnFrame_ok ..).1 h
    exact .returns rv r f n hrv hcap hr hf hn0 hn
  | halt => cases h; exact .halts

/-- A step ends the run and writes `STATUS` alone, with a state other than RUNNING, or the execute rule of the
instruction fetched completes on the state with `ip` advanced. -/
theorem step_effect {s t : State} (h : step s = .next t) :
    (t.status.state ≠ .running ∧ t = { s with status := t.status }) ∨
    ∃ i, fetch s = .instr i ∧ RuleEffect s.ip (advance i s) i t := by
  obtain ⟨-, ⟨i, hfetch, hexec⟩ | ⟨-, rfl⟩ | ⟨op, -, rfl⟩ | ⟨op, c, -, rfl⟩⟩ := (step_next s t).1 h
  · obtain ⟨-, rfl⟩ | ⟨hi, hrule | ⟨c, -, rfl⟩⟩ := (exec_next ..).1 hexec
    · exact .inl ⟨nofun, rfl⟩
    · exact .inr ⟨i, hfetch, ruleEffect_of_ok hi hrule⟩
    · exact .inl ⟨nofun, rfl⟩
  · exact .inl ⟨nofun, rfl⟩
  · exact .inl ⟨nofun, rfl⟩
  · exact .inl ⟨nofun, rfl⟩

end Sys2Proof.Machine
end

section
/-! PROOF. Which part of the state a step writes, and by which instruction: `sp`, `fp`, `ip`, `OUT`, the global store and
`STATUS` (spec/10_state.md R20 to R30). -/

namespace Sys2Proof.Machine

/-! ### The stack pointer -/

/-- Every pop and push leaves `sp` in its range; where one does not move it, `sp` stays as it was. -/
theorem spInRange_of_effect {a : Int} {s t : State} {i : Instr} (h : RuleEffect a s i t) (hsp : SpInRange s) :
    SpInRange t := by
  obtain ⟨hlow, hcap⟩ := hsp
  cases h with
  | jumps | halts => exact ⟨hlow, hcap⟩
  | _ => constructor <;> dsimp only <;> omega

/-- Settles O28: an ending leaves `sp`, and every execute rule keeps it in its range. -/
theorem stepKeepsSpInRange : Obligations.StepKeepsSpInRange := by
  intro s t hsp h
  obtain ⟨-, ht⟩ | ⟨i, -, heffect⟩ := step_effect h
  · rw [ht]; exact hsp
  · exact spInRange_of_effect heffect hsp

/-! ### The parts one or two instructions write -/

/-- Settles O49: the effect that writes `OUT` is that of PUTS. -/
theorem onlyPutsChangesTheOutput : Obligations.OnlyPutsChangesTheOutput := by
  intro s t h
  obtain ⟨-, ht⟩ | ⟨i, hfetch, heffect⟩ := step_effect h
  · rw [ht]; exact .inl rfl
  · cases heffect with
    | outputs v hv => exact .inr ⟨hfetch, v, hv, rfl⟩
    | _ => exact .inl rfl

/-- Settles O50: the effect that writes the global store is that of GSTORE, at its address. -/
theorem onlyGstoreChangesTheGlobals : Obligations.OnlyGstoreChangesTheGlobals := by
  intro s t h a hne
  obtain ⟨-, ht⟩ | ⟨i, hfetch, heffect⟩ := step_effect h
  · rw [ht] at hne; exact absurd rfl hne
  · cases heffect with
    | storesGlobal addr v _ _ _ hlow =>
      obtain rfl : a = addr :=
        not_imp_comm.1 (fun hother => (cell_write s.globals hlow v a).trans (if_neg hother)) hne
      exact hfetch
    | _ => exact absurd rfl hne

/-- Settles O51: the effects that write `fp` are those of CALL and RET. -/
theorem onlyCallAndRetChangeFp : Obligations.OnlyCallAndRetChangeFp := by
  intro s t h hne
  obtain ⟨-, ht⟩ | ⟨i, hfetch, heffect⟩ := step_effect h
  · rw [ht] at hne; exact absurd rfl hne
  · cases heffect with
    | calls target n => exact .inl ⟨target, n, hfetch, rfl⟩
    | returns _ _ _ _ _ _ _ hf => exact .inr ⟨hfetch, hf⟩
    | _ => exact absurd rfl hne

/-- Settles O52: the effects that write `ip` past its advance are those of the instructions left out. -/
theorem sequentialInstructionsAdvanceIp : Obligations.SequentialInstructionsAdvanceIp := by
  rintro s t i hfetch h hend ⟨hbr, hbrt, hbrf, hcall, hret⟩
  have hexec : exec i s = .next t := (step_of_instr (running_of_step_next h) hfetch).symm.trans h
  obtain ⟨-, rfl⟩ | ⟨hi, hrule | ⟨c, -, rfl⟩⟩ := (exec_next ..).1 hexec
  · simp at hend
  · cases ruleEffect_of_ok hi hrule with
    | jumps => exact absurd rfl hbr
    | branches htaken => exact absurd htaken (not_or.2 ⟨hbrt, hbrf⟩)
    | calls => exact absurd rfl hcall
    | returns => exact absurd rfl hret
    | _ => rfl
  · simp at hend

/-- Settles O53: an execute rule leaves `STATUS`, but for HALT's, which ends the run as every other ending does. -/
theorem statusIsWrittenOnEndingOnly : Obligations.StatusIsWrittenOnEndingOnly := by
  intro s t h
  refine ⟨running_of_step_next h, ?_⟩
  obtain ⟨hstate, -⟩ | ⟨i, -, heffect⟩ := step_effect h
  · exact .inr hstate
  · cases heffect with
    | halts => exact .inr (haltRun_not_running _ _ _)
    | _ => exact .inl rfl

/-- Settles O39: a state with a next one is RUNNING. -/
theorem terminalStateHasNoStep : Obligations.TerminalStateHasNoStep :=
  fun _ hterminal _ h => hterminal (running_of_step_next h)

end Sys2Proof.Machine
end

section
/-! PROOF. The data memories stay canonical and inside their address spaces (spec/10_state.md R25, R26). -/

namespace Sys2Proof.Machine

/-- One memory in canonical form, with every address below `size`. -/
def Memory.FitsIn (m : Memory) (size : Int) : Prop := m.wf ∧ ∀ c ∈ m, (c.1 : Int) < size

theorem memoriesCanonical_iff (s : State) :
    MemoriesCanonical s ↔ s.stack.FitsIn s.cfg.stackCapacity ∧ s.globals.FitsIn s.cfg.globalsSize := by
  unfold MemoriesCanonical Memory.FitsIn
  tauto

theorem fitsIn_nil (size : Int) : Memory.FitsIn [] size := ⟨.nil, nofun⟩

theorem fitsIn_write {m : Memory} {size a : Int} (h : m.FitsIn size) (h0 : 0 ≤ a) (ha : a < size) (v : Int) :
    (m.write a.toNat v).FitsIn size := by
  obtain ⟨hwf, hlt⟩ := h
  refine ⟨write_wf m _ v hwf, fun c hc => ?_⟩
  obtain rfl | hold := mem_write m _ v hc
  · dsimp only; omega
  · exact hlt c hold

theorem memoriesCanonical_of_effect {a : Int} {s t : State} {i : Instr} (h : RuleEffect a s i t)
    (hs : MemoriesCanonical s) : MemoriesCanonical t := by
  rw [memoriesCanonical_iff] at hs ⊢
  obtain ⟨hstack, hglobals⟩ := hs
  cases h with
  | jumps | branches | discards | outputs | halts => exact ⟨hstack, hglobals⟩
  | combines | pushes | stores | returns => exact ⟨fitsIn_write hstack (by omega) (by omega) _, hglobals⟩
  | storesGlobal _ _ _ _ _ hlow hin => exact ⟨hstack, fitsIn_write hglobals hlow (by omega) _⟩
  | calls target n hlow hroom =>
    have hn := fitsIn_write hstack (a := s.sp + 1) (by omega) (by omega) n
    have hfp := fitsIn_write hn (a := s.sp + 2) (by omega) (by omega) s.fp
    exact ⟨fitsIn_write hfp (a := s.sp + 3) (by omega) (by omega) s.ip, hglobals⟩

/-- Settles O29: an ending leaves both memories, and every execute rule writes inside the bounds it has checked. -/
theorem stepKeepsMemoriesCanonical : Obligations.StepKeepsMemoriesCanonical := by
  intro s t hs h
  obtain ⟨-, ht⟩ | ⟨i, -, heffect⟩ := step_effect h
  · rw [ht]; exact hs
  · exact memoriesCanonical_of_effect heffect hs

end Sys2Proof.Machine
end

section
/-! PROOF. The written slots have no gap below them and reach the top of the live stack (spec/92_eei_decisions.md D8). -/

namespace Sys2Proof.Machine

/-- The written cells of a memory have no gap below them, and `top` is one of them unless it is negative. -/
def Memory.WrittenUpTo (m : Memory) (top : Int) : Prop :=
  (∀ a b, 0 ≤ a → a ≤ b → m.cell b ≠ none → m.cell a ≠ none) ∧ (0 ≤ top → m.cell top ≠ none)

theorem writtenPrefix_iff (s : State) : WrittenPrefix s ↔ s.stack.WrittenUpTo s.sp := Iff.rfl

theorem writtenUpTo_nil {top : Int} (h : top < 0) : Memory.WrittenUpTo [] top :=
  ⟨by simp [Memory.cell, Memory.read], fun h0 => absurd h (not_lt.2 h0)⟩

theorem cell_ne_none_of_writtenUpTo {m : Memory} {top a : Int} (h : m.WrittenUpTo top) (h0 : 0 ≤ a) (ha : a ≤ top) :
    m.cell a ≠ none := h.1 a top h0 ha (h.2 (h0.trans ha))

theorem writtenUpTo_of_le {m : Memory} {top low : Int} (h : m.WrittenUpTo top) (hle : low ≤ top) :
    m.WrittenUpTo low := ⟨h.1, fun h0 => cell_ne_none_of_writtenUpTo h h0 hle⟩

/-- A write to a cell up to the one above `top` leaves no gap, and what was written stays written. -/
theorem writtenUpTo_write {m : Memory} {top a : Int} (h : m.WrittenUpTo top) (h0 : 0 ≤ a) (ha : a ≤ top + 1)
    (v : Int) {newTop : Int} (htop : newTop ≤ top ∨ newTop ≤ a) : (m.write a.toNat v).WrittenUpTo newTop := by
  have hwritten {b : Int} (hb : b = a ∨ m.cell b ≠ none) : (m.write a.toNat v).cell b ≠ none := by
    rw [cell_write m h0]
    split
    · simp
    · exact hb.resolve_left ‹_›
  have hlow {b : Int} (hb0 : 0 ≤ b) (hb : b ≤ top ∨ b ≤ a) : (m.write a.toNat v).cell b ≠ none := by
    refine hwritten ((eq_or_ne b a).imp_right fun hne => cell_ne_none_of_writtenUpTo h hb0 ?_)
    omega
  refine ⟨fun b c hb0 hbc hc => ?_, fun hnew => hlow hnew htop⟩
  rw [cell_write m h0] at hc
  split at hc
  · exact hlow hb0 (.inr (by omega))
  · exact hwritten (.inr (h.1 b c hb0 hbc hc))

theorem writtenPrefix_of_effect {a : Int} {s t : State} {i : Instr} (h : RuleEffect a s i t)
    (hs : WrittenPrefix s) : WrittenPrefix t := by
  rw [writtenPrefix_iff] at hs ⊢
  cases h with
  | jumps | halts => exact hs
  | branches | discards | outputs | storesGlobal =>
    exact writtenUpTo_of_le hs (show s.sp - 1 ≤ s.sp by omega)
  | combines | pushes =>
    exact writtenUpTo_write hs (by omega) (by omega) _ (.inr le_rfl)
  | stores _ _ _ h0 hlive =>
    exact writtenUpTo_write hs h0 (by omega) _ (.inl (show s.sp - 1 ≤ s.sp by omega))
  | calls target n hlow =>
    have hn := writtenUpTo_write hs (a := s.sp + 1) (by omega) le_rfl n (.inr le_rfl)
    have hfp := writtenUpTo_write hn (a := s.sp + 2) (by omega) (by omega) s.fp (.inr le_rfl)
    exact writtenUpTo_write hfp (a := s.sp + 3) (by omega) (by omega) s.ip (.inr le_rfl)
  | returns rv r f n _ _ hr _ hn0 hn =>
    have hheader : s.stack.WrittenUpTo s.fp := ⟨hs.1, fun _ => Option.ne_none_iff_exists'.2 ⟨r, hr⟩⟩
    exact writtenUpTo_write hheader (by omega) (by omega) rv (.inr le_rfl)

/-- Settles O30: CALL and the pushes write just above the live stack; STORE and the arithmetic write inside it; RET
writes below a header whose slots it has read. -/
theorem stepKeepsTheWrittenPrefix : Obligations.StepKeepsTheWrittenPrefix := by
  intro s t hs h
  obtain ⟨-, ht⟩ | ⟨i, -, heffect⟩ := step_effect h
  · rw [ht]; exact hs
  · exact writtenPrefix_of_effect heffect hs

end Sys2Proof.Machine
end

section
/-! PROOF. Every value in a data memory stays a cell value (spec/00_scope.md R12). -/

namespace Sys2Proof.Machine

/-- Every value the memory holds is `InRange` for the width `cb`. -/
def Memory.ValuesIn (cb : CellBits) (m : Memory) : Prop := ∀ a v, m.cell a = some v → inRange cb v = true

theorem valuesInRange_iff (s : State) :
    ValuesInRange s ↔ s.stack.ValuesIn s.cfg.cellBits ∧ s.globals.ValuesIn s.cfg.cellBits := Iff.rfl

theorem valuesIn_nil (cb : CellBits) : Memory.ValuesIn cb [] := by
  simp [Memory.ValuesIn, Memory.cell, Memory.read]

theorem valuesIn_write {cb : CellBits} {m : Memory} {a v : Int} (h : m.ValuesIn cb) (h0 : 0 ≤ a)
    (hv : inRange cb v = true) : (m.write a.toNat v).ValuesIn cb := by
  intro b w hw
  rw [cell_write m h0] at hw
  split at hw
  · exact Option.some.inj hw ▸ hv
  · exact h b w hw

/-- 0 and 1 are cell values of every legal width. -/
theorem inRange_truthWord {cb : CellBits} (hwidth : legalWidth cb = true) (b : Bool) :
    inRange cb (truthWord b) = true := by
  cases cb with
  | unbounded => rfl
  | bits w =>
    have hw : w - 1 ≠ 0 := by
      have := of_decide_eq_true hwidth
      omega
    have hpow : (1 : Int) < 2 ^ (w - 1) := one_lt_pow₀ (by decide) hw
    have hword : 0 ≤ truthWord b ∧ truthWord b ≤ 1 := by cases b <;> decide
    exact decide_eq_true ⟨by omega, by omega⟩

/-- What an execute rule that completes writes is an operand, a value it has read or tested, a truth value, or one of
the three words of CALL. -/
theorem valuesInRange_of_effect {a : Int} {s t : State} {i : Instr} (h : RuleEffect a s i t)
    (hwidth : legalWidth s.cfg.cellBits = true) (hoperands : ∀ v ∈ i.operands, inRange s.cfg.cellBits v = true)
    (hfp : inRange s.cfg.cellBits s.fp = true) (hip : inRange s.cfg.cellBits s.ip = true) (hs : ValuesInRange s) :
    ValuesInRange t := by
  obtain ⟨hstack, hglobals⟩ := (valuesInRange_iff s).1 hs
  rw [valuesInRange_iff]
  cases h with
  | jumps | branches | discards | outputs | halts => exact hs
  | combines v hv =>
    have hrange : inRange s.cfg.cellBits v = true := by
      obtain hv | ⟨b, rfl⟩ := hv
      · exact hv
      · exact inRange_truthWord hwidth b
    exact ⟨valuesIn_write hstack (by omega) hrange, hglobals⟩
  | pushes v hv =>
    have hrange : inRange s.cfg.cellBits v = true := by
      obtain hv | ⟨b, hv⟩ | ⟨b, hv⟩ := hv
      · exact hoperands v hv
      · exact hstack b v hv
      · exact hglobals b v hv
    exact ⟨valuesIn_write hstack (by omega) hrange, hglobals⟩
  | stores _ v hv h0 => exact ⟨valuesIn_write hstack h0 (hstack _ v hv), hglobals⟩
  | storesGlobal _ v hv _ _ hlow => exact ⟨hstack, valuesIn_write hglobals hlow (hstack _ v hv)⟩
  | calls target n hlow =>
    have hn := valuesIn_write hstack (a := s.sp + 1) (by omega) (hoperands n (by simp [Instr.operands]))
    have hframe := valuesIn_write hn (a := s.sp + 2) (by omega) hfp
    exact ⟨valuesIn_write hframe (a := s.sp + 3) (by omega) hip, hglobals⟩
  | returns rv _ _ _ hrv => exact ⟨valuesIn_write hstack (by omega) (hstack _ rv hrv), hglobals⟩

/-- The new `fp` is the old one, a stack address, or a value read from the stack. -/
theorem inRange_fp_of_effect {a : Int} {s t : State} {i : Instr} (h : RuleEffect a s i t)
    (haddr : AddressesInRange s) (hs : ValuesInRange s) : inRange s.cfg.cellBits t.fp = true := by
  obtain ⟨hfp, hslots, -, -⟩ := haddr
  cases h with
  | calls => exact hslots (s.sp + 3) (by omega) (by omega)
  | returns _ _ f _ _ _ _ hf => exact hs.1 _ f hf
  | _ => exact hfp

/-- A fetched instruction's operands are code cells, and the address after it is at most the end of code. -/
theorem inRange_of_fetch {s : State} {i : Instr} (haddr : AddressesInRange s) (h : fetch s = .instr i) :
    (∀ v ∈ i.operands, inRange s.cfg.cellBits v = true) ∧ inRange s.cfg.cellBits (s.ip + i.length) = true := by
  obtain ⟨-, -, hcode, hcells⟩ := haddr
  have h0 := ((fetch_instr s i).1 h).1
  exact ⟨fun v hv => List.all_eq_true.1 hcells v (operands_mem_code h hv), hcode _ (by omega) (next_ip_le_len h)⟩

/-- Settles O32: the configuration stays, so of the addresses only `fp` has to be looked at, and the values an execute
rule writes are cell values wherever they come from. -/
theorem stepKeepsValuesInRange : Obligations.StepKeepsValuesInRange := by
  intro s t hwidth haddr hs h
  obtain ⟨-, ht⟩ | ⟨i, hfetch, heffect⟩ := step_effect h
  · rw [ht]; exact ⟨haddr, hs⟩
  · obtain ⟨hoperands, hip⟩ := inRange_of_fetch haddr hfetch
    have hfp : inRange s.cfg.cellBits t.fp = true := inRange_fp_of_effect (s := advance i s) heffect haddr hs
    refine ⟨?_, valuesInRange_of_effect heffect hwidth hoperands haddr.1 hip hs⟩
    unfold AddressesInRange
    rw [noStepChangesTheConfiguration s t h]
    exact ⟨hfp, haddr.2⟩

end Sys2Proof.Machine
end

section
/-! PROOF. What holds at a launch and at the model's reset state (spec/70_reset_and_hazards.md R190, R193). -/

namespace Sys2Proof.Machine

theorem launch_memoriesCanonical (c : Config) : MemoriesCanonical (State.launch c) :=
  (memoriesCanonical_iff _).2 ⟨fitsIn_nil _, fitsIn_nil _⟩

theorem launch_writtenPrefix (c : Config) : WrittenPrefix (State.launch c) :=
  (writtenPrefix_iff _).2 (writtenUpTo_nil (top := -1) (by decide))

theorem launch_valuesInRange (c : Config) : ValuesInRange (State.launch c) :=
  (valuesInRange_iff _).2 ⟨valuesIn_nil _, valuesIn_nil _⟩

/-- The empty stack's `sp` is in its range as soon as there is a slot. -/
theorem launch_spInRange {c : Config} (h : 0 < c.stackCapacity) : SpInRange (State.launch c) := by
  refine ⟨le_rfl, ?_⟩
  simp only [launch_sp, launch_cfg]
  omega

/-- `STATUS` is coherent whether the launch check passes or fails. -/
theorem launchStatus_coherent (c : Config) : (launchStatus c).Coherent := by
  cases h : launchOk c with
  | false => rw [launchStatus_of_not_ok h]; rfl
  | true => rw [launchStatus_of_ok h]; rfl

theorem stackCapacity_pos_of_launchOk {c : Config} (h : launchOk c = true) : 0 < c.stackCapacity := by
  simp only [launchOk, Bool.and_eq_true, decide_eq_true_eq] at h
  exact h.1.1.2

/-- Settles O33: the memories start empty, and the launch check asks for a slot. -/
theorem launchMeetsTheInvariants : Obligations.LaunchMeetsTheInvariants := fun c h =>
  ⟨launch_spInRange (stackCapacity_pos_of_launchOk h), launch_memoriesCanonical c, launch_writtenPrefix c,
    launchStatus_coherent c, launch_valuesInRange c⟩

/-- With an unbounded `CELL_BITS` every address is a cell value. -/
theorem addressesInRange_of_unbounded {s : State} (h : s.cfg.cellBits = .unbounded) : AddressesInRange s := by
  simp [AddressesInRange, h, inRange]

/-- Settles O34: the reset state is a launch, of a configuration with slots and unbounded cells. -/
theorem resetMeetsTheInvariants : Obligations.ResetMeetsTheInvariants :=
  ⟨launch_spInRange (by decide), launch_memoriesCanonical _, launch_writtenPrefix _,
    launchStatus_coherent unloadedConfig, launch_valuesInRange _, addressesInRange_of_unbounded rfl⟩

/-- Settles O37: `START_IP` is no address of an empty program, so the launch check fails. -/
theorem resetHasNoProgram : Obligations.ResetHasNoProgram := by
  have hstatus : State.reset.status = _ := launchStatus_of_not_ok (c := unloadedConfig) (by decide)
  exact ⟨rfl, rfl, rfl, rfl, rfl, by rw [hstatus], by rw [hstatus]⟩

end Sys2Proof.Machine
end

section
/-! PROOF. What each execute rule can raise, said once: the access, the address, and for which instructions
(spec/60_exceptions.md R160 to R165). -/

namespace Sys2Proof.Machine

/-- The instructions whose row in R165's table has the two conditions of a pop (R49). -/
def Pops (i : Instr) : Prop :=
  (.outOfBoundsAccess, .stackPop) ∈ raisesTable i ∧ (.uninitializedRead, .stackPop) ∈ raisesTable i

/-- The conditions that the execute rule of an instruction raises from the state `s` it begins in, `ip` advanced. -/
inductive RuleRaises (s : State) : Instr → Fatal → Prop
  /-- A pop of an empty stack (R49). -/
  | popEmpty {i : Instr} (hi : Pops i) (a : Int) (ha : SpInRange s → a = -1) :
      RuleRaises s i (.outOfBounds .stackPop a)
  /-- A pop of an unwritten slot (R49); only RET pops above `sp`. -/
  | popUnwritten {i : Instr} (hi : Pops i) (a : Int) (hnone : s.slot a = none) (h0 : 0 ≤ a)
      (hlive : a ≤ s.sp ∨ i = .ret) : RuleRaises s i (.uninitialized .stackPop a)
  /-- A push onto a full stack (R48). -/
  | pushFull {i : Instr} (hi : (.outOfBoundsAccess, .stackPush) ∈ raisesTable i) (a : Int)
      (ha : SpInRange s → a = s.cfg.stackCapacity) : RuleRaises s i (.outOfBounds .stackPush a)
  | overflow {i : Instr} (hi : (.overflow, .arith) ∈ raisesTable i) : RuleRaises s i .overflow
  | frameRead (offset : Int) : RuleRaises s (.load offset) (.outOfBounds .frameRead (s.fp + offset))
  | frameUnwritten (offset : Int) (hnone : s.slot (s.fp + offset) = none) (h0 : 0 ≤ s.fp + offset)
      (hlive : s.fp + offset ≤ s.sp) : RuleRaises s (.load offset) (.uninitialized .frameRead (s.fp + offset))
  | frameWrite (offset : Int) : RuleRaises s (.store offset) (.outOfBounds .frameWrite (s.fp + offset))
  | globalRead (addr : Int) : RuleRaises s (.gload addr) (.outOfBounds .globalRead addr)
  | globalUnwritten (addr : Int) (hnone : s.global addr = none) :
      RuleRaises s (.gload addr) (.uninitialized .globalRead addr)
  | globalWrite (addr : Int) : RuleRaises s (.gstore addr) (.outOfBounds .globalWrite addr)
  | fpRestore : RuleRaises s .ret (.outOfBounds .fpRestore s.fp)
  | argDiscard (n : Int) (hn : s.slot (s.fp - 2) = some n) :
      RuleRaises s .ret (.outOfBounds .argDiscard (s.fp - 3 - n))

/-! ### The pops and pushes inside a rule -/

/-- A rule raises what a pop of its raises with `sp` at `x`, where only RET moves `sp` up. -/
theorem raises_of_pop_error {s : State} {i : Instr} {c : Fatal} (hi : Pops i) (x : Int)
    (hrange : SpInRange s → -1 ≤ x ∧ x ≤ s.cfg.stackCapacity - 1) (hlive : x ≤ s.sp ∨ i = .ret)
    (h : pop { s with sp := x } = .error c) : RuleRaises s i c := by
  obtain ⟨hempty, rfl⟩ | ⟨hout, rfl⟩ | ⟨h0, -, hnone, rfl⟩ := (pop_error ..).1 h
  · exact .popEmpty hi _ fun _ => rfl
  · exact .popEmpty hi _ fun hsp => by have := hrange hsp; dsimp only at hout ⊢; omega
  · exact .popUnwritten hi x hnone h0 hlive

/-- The first pop of a rule, and what the rule goes on with. -/
theorem raises_of_pop_bind {s : State} {i : Instr} {c : Fatal} {k : Int × State → Except Fatal State} (hi : Pops i)
    (h : pop s >>= k = .error c)
    (hk : ∀ v, 0 ≤ s.sp → s.sp ≤ s.cfg.stackCapacity - 1 → k (v, { s with sp := s.sp - 1 }) = .error c →
      RuleRaises s i c) : RuleRaises s i c := by
  obtain hpop | ⟨⟨v, t⟩, hpop, hrest⟩ := (bind_error ..).1 h
  · exact raises_of_pop_error hi s.sp id (.inl le_rfl) hpop
  · obtain ⟨h0, hcap, -, rfl⟩ := (pop_ok ..).1 hpop
    exact hk v h0 hcap hrest

/-- The second pop of a rule, with a written top below it. -/
theorem raises_of_second_pop_bind {s : State} {i : Instr} {c : Fatal} {k : Int × State → Except Fatal State}
    (hi : Pops i) (h0 : 0 ≤ s.sp) (h : pop { s with sp := s.sp - 1 } >>= k = .error c)
    (hk : ∀ v, 1 ≤ s.sp → k (v, { s with sp := s.sp - 2 }) = .error c → RuleRaises s i c) : RuleRaises s i c := by
  obtain hpop | ⟨⟨v, t⟩, hpop, hrest⟩ := (bind_error ..).1 h
  · exact raises_of_pop_error hi (s.sp - 1) (fun ⟨_, hcap⟩ => by omega) (.inl (by omega)) hpop
  · obtain ⟨h1, -, -, rfl⟩ := (pop_ok ..).1 hpop
    have e : s.sp - 1 - 1 = s.sp - 2 := by omega
    dsimp only at h1 hrest
    rw [e] at hrest
    exact hk v (by omega) hrest

/-- A push with a free slot above `sp` raises nothing. -/
theorem push_ne_error {v : Int} {s : State} (hlow : -1 ≤ s.sp) (hfree : s.sp < s.cfg.stackCapacity - 1) (c : Fatal) :
    push v s ≠ .error c := by
  rw [(push_ok v s _).2 ⟨hlow, hfree, rfl⟩]
  nofun

theorem raises_of_push_error {s : State} {i : Instr} {c : Fatal} {v : Int}
    (hi : (.outOfBoundsAccess, .stackPush) ∈ raisesTable i) (h : push v s = .error c) : RuleRaises s i c := by
  obtain ⟨-, rfl⟩ | ⟨hout, -, rfl⟩ := (push_error ..).1 h
  · exact .pushFull hi _ fun _ => rfl
  · exact .pushFull hi _ fun ⟨hlow, hcap⟩ => by omega

/-! ### The rules -/

theorem raises_of_arithmetic_error {f : Int → Int → Int} {s : State} {i : Instr} {c : Fatal} (hi : Pops i)
    (harith : (.overflow, .arith) ∈ raisesTable i) (h : arithmetic f s = .error c) : RuleRaises s i c := by
  rw [arithmetic_eq_bind] at h
  refine raises_of_pop_bind hi h fun b h0 hcap h => raises_of_second_pop_bind hi h0 h fun a h1 h => ?_
  split at h
  · exact absurd h (push_ne_error (by dsimp only; omega) (by dsimp only; omega) c)
  · cases h; exact .overflow harith

theorem raises_of_comparison_error {f : Int → Int → Bool} {s : State} {i : Instr} {c : Fatal} (hi : Pops i)
    (h : comparison f s = .error c) : RuleRaises s i c := by
  rw [comparison_eq_bind] at h
  refine raises_of_pop_bind hi h fun b h0 hcap h => raises_of_second_pop_bind hi h0 h fun a h1 h => ?_
  exact absurd h (push_ne_error (by dsimp only; omega) (by dsimp only; omega) c)

theorem raises_of_branchOn_error {taken target : Int} {s : State} {i : Instr} {c : Fatal} (hi : Pops i)
    (h : branchOn taken target s = .error c) : RuleRaises s i c := by
  rw [branchOn_eq_bind] at h
  refine raises_of_pop_bind hi h fun v _ _ h => ?_
  split at h <;> cases h

theorem raises_of_loadFrame_error {offset : Int} {s : State} {c : Fatal} (h : loadFrame offset s = .error c) :
    RuleRaises s (.load offset) c := by
  obtain hread | ⟨v, -, hpush⟩ := (bind_error ..).1 h
  · obtain ⟨-, rfl⟩ | ⟨h0, hlive, -, hnone, rfl⟩ := (readFrame_error ..).1 hread
    · exact .frameRead offset
    · exact .frameUnwritten offset hnone h0 hlive
  · exact raises_of_push_error (by simp [raisesTable]) hpush

theorem raises_of_loadGlobal_error {addr : Int} {s : State} {c : Fatal} (h : loadGlobal addr s = .error c) :
    RuleRaises s (.gload addr) c := by
  obtain hread | ⟨v, -, hpush⟩ := (bind_error ..).1 h
  · obtain ⟨-, rfl⟩ | ⟨-, -, hnone, rfl⟩ := (readGlobal_error ..).1 hread
    · exact .globalRead addr
    · exact .globalUnwritten addr hnone
  · exact raises_of_push_error (by simp [raisesTable]) hpush

/-- Only the first of CALL's pushes that finds no free slot raises, and all three would raise the same. -/
theorem raises_of_callFrame_error {target n : Int} {s : State} {c : Fatal} (h : callFrame target n s = .error c) :
    RuleRaises s (.call target n) c := by
  have htable : (.outOfBoundsAccess, .stackPush) ∈ raisesTable (.call target n) := by simp [raisesTable]
  have hpush {v : Int} {t : State} (ht : push v t = .error c) : ∃ a, c = .outOfBounds .stackPush a := by
    obtain ⟨-, rfl⟩ | ⟨-, -, rfl⟩ := (push_error ..).1 ht
    · exact ⟨_, rfl⟩
    · exact ⟨_, rfl⟩
  have hkind : ∃ a, c = .outOfBounds .stackPush a := by
    simp only [callFrame_eq_bind, bind_error, reduceCtorEq, and_false, exists_false, or_false] at h
    obtain hn | ⟨s₁, -, hfp | ⟨s₂, -, hip⟩⟩ := h
    · exact hpush hn
    · exact hpush hfp
    · exact hpush hip
  obtain ⟨a, rfl⟩ := hkind
  exact .pushFull htable a fun hsp => by cases eq_of_callFrame_error hsp h; rfl

theorem pops_ret : Pops .ret := by simp [Pops, raisesTable]

/-- A pop of RET's header, with `sp` at `x` below `fp`. -/
theorem raises_of_header_pop_bind {s : State} {c : Fatal} {k : Int × State → Except Fatal State} {x : Int}
    (hlow : -1 ≤ x) (hcap : x ≤ s.cfg.stackCapacity - 1) (h : pop { s with sp := x } >>= k = .error c)
    (hk : ∀ v, 0 ≤ x → s.slot x = some v → k (v, { s with sp := x - 1 }) = .error c → RuleRaises s .ret c) :
    RuleRaises s .ret c := by
  obtain hpop | ⟨⟨v, t⟩, hpop, hrest⟩ := (bind_error ..).1 h
  · exact raises_of_pop_error pops_ret x (fun _ => ⟨hlow, hcap⟩) (.inr rfl) hpop
  · obtain ⟨h0, -, hv, rfl⟩ := (pop_ok ..).1 hpop
    exact hk v h0 hv hrest

theorem raises_of_unwindHeader_error {rv : Int} {s : State} {c : Fatal} (h0 : 0 ≤ s.fp)
    (hcap : s.fp ≤ s.cfg.stackCapacity - 1) (h : unwindHeader rv { s with sp := s.fp } = .error c) :
    RuleRaises s .ret c := by
  refine raises_of_header_pop_bind (by omega) hcap h fun r _ _ h => ?_
  refine raises_of_header_pop_bind (by omega) (by omega) h fun f h1 _ h => ?_
  refine raises_of_header_pop_bind (by omega) (by omega) h fun n h2 hn h => ?_
  have e2 : s.fp - 1 - 1 = s.fp - 2 := by omega
  have e3 : s.fp - 2 - 1 = s.fp - 3 := by omega
  simp only [e2, e3] at hn h
  obtain hdiscard | ⟨t, hdiscard, hpush⟩ := (bind_error ..).1 h
  · obtain ⟨-, rfl⟩ := (discardArgs_error ..).1 hdiscard
    exact .argDiscard n hn
  · obtain ⟨hn0, hle, rfl⟩ := (discardArgs_ok ..).1 hdiscard
    dsimp only at hle
    obtain hpush | ⟨_, -, hok⟩ := (bind_error ..).1 hpush
    · exact absurd hpush (push_ne_error (by dsimp only; omega) (by dsimp only; omega) c)
    · cases hok

theorem raises_of_returnFrame_error {s : State} {c : Fatal} (h : returnFrame s = .error c) :
    RuleRaises s .ret c := by
  rw [returnFrame_eq_bind] at h
  refine raises_of_pop_bind pops_ret h fun rv _ _ h => ?_
  obtain hrestore | ⟨t, hrestore, hunwind⟩ := (bind_error ..).1 h
  · obtain ⟨-, rfl⟩ := (restoreSp_error ..).1 hrestore
    exact .fpRestore
  · obtain ⟨h0, hcap, rfl⟩ := (restoreSp_ok ..).1 hrestore
    exact raises_of_unwindHeader_error h0 hcap hunwind

theorem ruleRaises_of_error {a : Int} {i : Instr} {s : State} {c : Fatal} (h : ruleOf a i s = .error c) :
    RuleRaises s i c := by
  cases i with
  | invalid | br target | halt => cases h
  | iadd | isub | imul =>
    exact raises_of_arithmetic_error (by simp [Pops, raisesTable]) (by simp [raisesTable]) h
  | ilt | ieq =>
    rw [ruleOf] at h
    exact raises_of_comparison_error (by simp [Pops, raisesTable]) h
  | brt target | brf target => exact raises_of_branchOn_error (by simp [Pops, raisesTable]) h
  | iconst literal => exact raises_of_push_error (by simp [raisesTable]) h
  | load offset => exact raises_of_loadFrame_error h
  | gload addr => exact raises_of_loadGlobal_error h
  | store offset =>
    refine raises_of_pop_bind (by simp [Pops, raisesTable]) h fun v _ _ hwrite => ?_
    obtain ⟨-, rfl⟩ := (writeFrame_error ..).1 hwrite
    exact .frameWrite offset
  | gstore addr =>
    refine raises_of_pop_bind (by simp [Pops, raisesTable]) h fun v _ _ hwrite => ?_
    obtain ⟨-, rfl⟩ := (writeGlobal_error ..).1 hwrite
    exact .globalWrite addr
  | puts | pop => exact raises_of_pop_bind (by simp [Pops, raisesTable]) h nofun
  | call target n => exact raises_of_callFrame_error h
  | ret => exact raises_of_returnFrame_error h

end Sys2Proof.Machine
end

section
/-! PROOF. What `STATUS` records of the conditions of the execute stage, and that its fields stay as its state says
(spec/10_state.md R27 to R29, spec/60_exceptions.md R161, R162, R165). -/

namespace Sys2Proof.Machine

/-! ### The condition table -/

/-- Every condition a rule raises is in the row of its instruction. -/
theorem mem_raisesTable_of_raises {s : State} {i : Instr} {c : Fatal} (h : RuleRaises s i c) :
    (c.error, c.access) ∈ raisesTable i := by
  cases h with
  | popEmpty hi => exact hi.1
  | popUnwritten hi => exact hi.2
  | pushFull hi => exact hi
  | overflow hi => exact hi
  | _ => simp [Fatal.error, Fatal.access, raisesTable]

/-- Executing INVALID takes the unknown opcode (R151). -/
theorem exec_invalid (s : State) :
    exec .invalid s = .next (takeUnknownOpcode (s.cfg.opcodes.number .invalid) s) := rfl

/-- Settles O44: from a RUNNING state only a raise of the execute rule ends in FAULT. -/
theorem instructionsRaiseOnlyTheTable : Obligations.InstructionsRaiseOnlyTheTable := by
  intro i s t hs h hfault
  obtain ⟨-, rfl⟩ | ⟨-, hrule | ⟨c, hrule, rfl⟩⟩ := (exec_next ..).1 h
  · simp at hfault
  · obtain ⟨-, hstate | hstate⟩ := endsWithoutError_of_rule_ok hs hrule <;> simp [hstate] at hfault
  · exact ⟨_, _, rfl, rfl, mem_raisesTable_of_raises (ruleRaises_of_error hrule)⟩

/-! ### The recorded access and address -/

/-- With no error recorded before, an instruction that records one other than UnknownOpcode has raised it in its execute
rule. -/
theorem raised_of_error {i : Instr} {s t : State} {e : ErrorKind} (hs : s.status = Status.ofRunning)
    (h : exec i s = .next t) (he : t.status.error = some e) (hne : e ≠ .unknownOpcode) :
    ∃ op c, RuleRaises (advance i s) i c ∧ c.error = e ∧ t = takeFatal op c s := by
  obtain ⟨-, rfl⟩ | ⟨-, hrule | ⟨c, hrule, rfl⟩⟩ := (exec_next ..).1 h
  · exact absurd (Option.some.inj he).symm hne
  · obtain ⟨hkept, -⟩ := endsWithoutError_of_rule_ok (by rw [hs]; rfl) hrule
    rw [hkept, hs] at he
    cases he
  · exact ⟨_, c, ruleRaises_of_error hrule, Option.some.inj he, rfl⟩

/-- Settles O45: each access out of bounds that a rule raises, with its address. -/
theorem outOfBoundsRecordsTheAddress : Obligations.OutOfBoundsRecordsTheAddress := by
  intro i s t hsp hs h he
  obtain ⟨op, c, hraises, hc, rfl⟩ := raised_of_error hs h he nofun
  have hsp' : SpInRange (advance i s) := hsp
  cases hraises with
  | popUnwritten | frameUnwritten | globalUnwritten | overflow => cases hc
  | pushFull _ a ha => exact .inl ⟨rfl, congrArg some (ha hsp')⟩
  | popEmpty _ a ha => exact .inr (.inl ⟨rfl, congrArg some (ha hsp')⟩)
  | frameRead o => exact .inr (.inr (.inl ⟨o, rfl, rfl, rfl⟩))
  | frameWrite o => exact .inr (.inr (.inr (.inl ⟨o, rfl, rfl, rfl⟩)))
  | globalRead a => exact .inr (.inr (.inr (.inr (.inl ⟨a, rfl, rfl, rfl⟩))))
  | globalWrite a => exact .inr (.inr (.inr (.inr (.inr (.inl ⟨a, rfl, rfl, rfl⟩)))))
  | fpRestore => exact .inr (.inr (.inr (.inr (.inr (.inr (.inl ⟨rfl, rfl, rfl⟩))))))
  | argDiscard n hn => exact .inr (.inr (.inr (.inr (.inr (.inr (.inr ⟨rfl, rfl, n, hn, rfl⟩))))))

/-- Settles O46: each read of an unwritten cell that a rule raises, with its address. -/
theorem uninitializedReadRecordsTheCell : Obligations.UninitializedReadRecordsTheCell := by
  intro i s t _ hs h he
  obtain ⟨op, c, hraises, hc, rfl⟩ := raised_of_error hs h he nofun
  cases hraises with
  | popUnwritten _ a hnone => exact ⟨a, rfl, .inl ⟨rfl, hnone⟩⟩
  | frameUnwritten o hnone => exact ⟨s.fp + o, rfl, .inr (.inl ⟨o, rfl, rfl, rfl, hnone⟩)⟩
  | globalUnwritten a hnone => exact ⟨a, rfl, .inr (.inr ⟨rfl, rfl, hnone⟩)⟩
  | _ => cases hc

/-- Settles O48: the live stack is written, so only a pop above `sp`, which is RET's, or a global read finds an
unwritten cell. -/
theorem onlyRetReadsUnwrittenSlots : Obligations.OnlyRetReadsUnwrittenSlots := by
  intro i s t _ hwritten hs h he
  obtain ⟨op, c, hraises, hc, rfl⟩ := raised_of_error hs h he nofun
  cases hraises with
  | popUnwritten _ a hnone h0 hlive =>
    refine .inl ⟨hlive.resolve_left fun hle => ?_, rfl⟩
    exact cell_ne_none_of_writtenUpTo hwritten h0 hle hnone
  | frameUnwritten o hnone h0 hlive => exact absurd hnone (cell_ne_none_of_writtenUpTo hwritten h0 hlive)
  | globalUnwritten a => exact .inr ⟨a, rfl, rfl⟩
  | _ => cases hc

/-! ### The fields of STATUS -/

/-- A fatal condition taken with `STATUS` as in a run leaves it coherent, when ARITH is its access for Overflow alone
and an opcode value is missing for the opcode fetch alone. -/
theorem coherent_takeFatal {s : State} {op : Option Int} {c : Fatal} (hs : s.status = Status.ofRunning)
    (harith : c.error = .overflow ↔ c.access = .arith) (hop : op = none → c.access = .codeFetch) :
    (takeFatal op c s).status.Coherent := by
  have hkind : c.error = .outOfBoundsAccess ∨ c.error = .uninitializedRead ∨ c.error = .overflow := by
    cases c <;> simp [Fatal.error]
  have haddress : c.address = none ↔ c.error = .overflow := by cases c <;> simp [Fatal.address, Fatal.error]
  have hcause : s.status.haltCause = none := by rw [hs]; rfl
  exact ⟨by simpa using hkind, rfl, rfl, hcause, by simpa using hop, by simpa using harith, by simpa using haddress⟩

theorem overflow_iff_arith_of_raises {s : State} {i : Instr} {c : Fatal} (h : RuleRaises s i c) :
    c.error = .overflow ↔ c.access = .arith := by cases h <;> simp [Fatal.error, Fatal.access]

theorem coherent_takeUnknownOpcode {s : State} (hs : s.status = Status.ofRunning) (op : Int) :
    (takeUnknownOpcode op s).status.Coherent := by simp [Status.Coherent, hs, Status.ofRunning]

theorem coherent_haltRun {s : State} (hs : s.status = Status.ofRunning) (cause : HaltCause) (a : Int) :
    (haltRun cause a s).status.Coherent := by simp [Status.Coherent, hs, Status.ofRunning]

theorem coherent_of_exec {i : Instr} {s t : State} (hs : s.status = Status.ofRunning) (h : exec i s = .next t) :
    t.status.Coherent := by
  obtain ⟨-, rfl⟩ | ⟨-, hrule | ⟨c, hrule, rfl⟩⟩ := (exec_next ..).1 h
  · exact coherent_takeUnknownOpcode hs _
  · by_cases hi : i = .halt
    · subst hi; cases hrule
      exact coherent_haltRun (s := advance .halt s) hs _ _
    · have hkept : t.status = Status.ofRunning := (ruleOf_keeps_status hi hrule).trans hs
      rw [hkept]; rfl
  · exact coherent_takeFatal hs (overflow_iff_arith_of_raises (ruleRaises_of_error hrule)) nofun

/-- Settles O31: a state with a next one is RUNNING, so its `STATUS` is that of a run, and each ending sets the fields of
its own table. -/
theorem stepKeepsStatusCoherent : Obligations.StepKeepsStatusCoherent := by
  intro s t hcoherent h
  have hrun := running_of_step_next h
  have hs : s.status = Status.ofRunning := by simpa [Status.Coherent, hrun] using hcoherent
  obtain hfetch | ⟨i, hfetch, -⟩ | ⟨op, hfetch, -⟩ | ⟨a, hfetch⟩ := fetch_cases s
  · cases (step_of_endOfCode hrun hfetch).symm.trans h
    exact coherent_haltRun hs _ _
  · exact coherent_of_exec hs ((step_of_instr hrun hfetch).symm.trans h)
  · cases (step_of_unknown hrun hfetch).symm.trans h
    exact coherent_takeUnknownOpcode hs op
  · cases (step_of_fatal hrun hfetch).symm.trans h
    exact coherent_takeFatal hs (by simp [Fatal.error, Fatal.access]) fun _ => rfl

/-- Settles O27: INVALID's execution writes `STATUS` alone. -/
theorem invalidEndsTheRun : Obligations.InvalidEndsTheRun :=
  ⟨rfl, fun s => ⟨_, exec_invalid s, rfl, rfl, rfl, rfl, rfl, rfl, fun _ => rfl, fun _ => rfl⟩⟩

end Sys2Proof.Machine
end

section
/-! PROOF. No instruction reads `OUT`, and RET alone reads above `sp`: one rule, run on two states that differ there,
does the same (spec/10_state.md R25, R30). -/

namespace Sys2Proof.Machine

/-! ### Two runs of one operation -/

/-- The second result is the condition that the first is, or a value that `R` relates to the first. -/
def SameOutcome {α β : Type} (R : α → β → Prop) (x : Except Fatal α) (y : Except Fatal β) : Prop :=
  (∀ c, x = .error c → y = .error c) ∧ ∀ a, x = .ok a → ∃ b, y = .ok b ∧ R a b

theorem sameOutcome_ok {α β : Type} {R : α → β → Prop} {a : α} {b : β} (h : R a b) :
    SameOutcome R (.ok a) (.ok b) := ⟨nofun, fun _ ha => ⟨b, rfl, Except.ok.inj ha ▸ h⟩⟩

theorem sameOutcome_error {α β : Type} {R : α → β → Prop} (c : Fatal) :
    SameOutcome R (.error c : Except Fatal α) (.error c : Except Fatal β) :=
  ⟨fun _ hc => Except.error.inj hc ▸ rfl, nofun⟩

theorem sameOutcome_bind {α β γ δ : Type} {R : α → β → Prop} {Q : γ → δ → Prop} {x : Except Fatal α}
    {y : Except Fatal β} {f : α → Except Fatal γ} {g : β → Except Fatal δ} (h : SameOutcome R x y)
    (hk : ∀ a b, R a b → SameOutcome Q (f a) (g b)) : SameOutcome Q (x >>= f) (y >>= g) := by
  obtain ⟨herror, hok⟩ := h
  refine ⟨fun c hc => ?_, fun d hd => ?_⟩
  · obtain hx | ⟨a, hx, hf⟩ := (bind_error ..).1 hc
    · exact (bind_error ..).2 (.inl (herror c hx))
    · obtain ⟨b, hy, hab⟩ := hok a hx
      exact (bind_error ..).2 (.inr ⟨b, hy, (hk a b hab).1 c hf⟩)
  · obtain ⟨a, hx, hf⟩ := (bind_ok ..).1 hd
    obtain ⟨b, hy, hab⟩ := hok a hx
    obtain ⟨e, hg, hde⟩ := (hk a b hab).2 d hf
    exact ⟨e, (bind_ok ..).2 ⟨b, hy, hg⟩, hde⟩

/-! ### Two states -/

/-- A relation of two stack memories under one `sp` that every pop, push and frame write keeps: the live stacks are the
same, `sp` can be lowered, and a write up to the slot above it can be made in both. -/
structure StackRelation (M : Int → Memory → Memory → Prop) : Prop where
  live : ∀ {top m m'}, M top m m' → ∀ {a}, a ≤ top → m'.cell a = m.cell a
  lower : ∀ {top m m'}, M top m m' → ∀ {low}, low ≤ top → M low m m'
  write : ∀ {top m m'}, M top m m' → ∀ {a newTop}, 0 ≤ a → a ≤ top + 1 → newTop ≤ top ∨ newTop ≤ a →
    ∀ v, M newTop (m.write a.toNat v) (m'.write a.toNat v)

/-- The second state is the first but for a stack memory that `M` relates to the first one's, and for the beginning of
`OUT`, which is `o'` where the first has `o`. -/
def Twin (M : Int → Memory → Memory → Prop) (o o' : List Int) (s s' : State) : Prop :=
  ∃ m w, s.out = o ++ w ∧ s' = { s with stack := m, out := o' ++ w } ∧ M s.sp s.stack m

section Rules

variable {M : Int → Memory → Memory → Prop} (hM : StackRelation M) {o o' : List Int} {s s' : State}
  (h : Twin M o o' s s')

include h in
theorem cfg_of_twin : s'.cfg = s.cfg := by
  obtain ⟨m, w, -, rfl, -⟩ := h
  rfl

include hM h

theorem slot_of_twin {a : Int} (ha : a ≤ s.sp) : s'.slot a = s.slot a := by
  obtain ⟨m, w, -, rfl, hm⟩ := h
  exact hM.live hm ha

/-! ### The operations -/

theorem push_twin (v : Int) : SameOutcome (Twin M o o') (push v s) (push v s') := by
  obtain ⟨m, w, hout, rfl, hm⟩ := h
  refine ⟨fun c hc => (push_error ..).2 ((push_error v c s).1 hc), fun t ht => ?_⟩
  obtain ⟨hlow, hfree, rfl⟩ := (push_ok ..).1 ht
  exact ⟨_, (push_ok ..).2 ⟨hlow, hfree, rfl⟩, _, w, hout, rfl, hM.write hm (by omega) le_rfl (.inr le_rfl) v⟩

theorem pop_twin : SameOutcome (fun p q => p.1 = q.1 ∧ Twin M o o' p.2 q.2) (pop s) (pop s') := by
  have htop := slot_of_twin hM h le_rfl
  obtain ⟨m, w, hout, rfl, hm⟩ := h
  refine ⟨fun c hc => ?_, fun ⟨v, t⟩ ht => ?_⟩
  · rw [pop_error] at hc ⊢
    rwa [htop]
  · obtain ⟨h0, hcap, hv, rfl⟩ := (pop_ok ..).1 ht
    exact ⟨_, (pop_ok ..).2 ⟨h0, hcap, htop.trans hv, rfl⟩, rfl, m, w, hout, rfl,
      hM.lower hm (Int.sub_le_self _ (by decide))⟩

/-- What a rule goes on with after a pop is given the same value and two states again. -/
theorem pop_bind_twin {k k' : Int × State → Except Fatal State}
    (hk : ∀ v t t', Twin M o o' t t' → SameOutcome (Twin M o o') (k (v, t)) (k' (v, t'))) :
    SameOutcome (Twin M o o') (pop s >>= k) (pop s' >>= k') := by
  refine sameOutcome_bind (pop_twin hM h) fun ⟨v, t⟩ ⟨v', t'⟩ hp => ?_
  obtain ⟨rfl, ht⟩ := hp
  exact hk v t t' ht

theorem readFrame_twin (offset : Int) : SameOutcome Eq (readFrame offset s) (readFrame offset s') := by
  have hlive {a : Int} (ha : a ≤ s.sp) := slot_of_twin hM h ha
  obtain ⟨m, w, -, rfl, -⟩ := h
  refine ⟨fun c hc => ?_, fun v hv => ?_⟩
  · rw [readFrame_error] at hc ⊢
    exact hc.imp_right fun ⟨h0, ha, hcap, hnone, hc⟩ => ⟨h0, ha, hcap, (hlive ha).trans hnone, hc⟩
  · obtain ⟨h0, ha, hcap, hv⟩ := (readFrame_ok ..).1 hv
    exact ⟨v, (readFrame_ok ..).2 ⟨h0, ha, hcap, (hlive ha).trans hv⟩, rfl⟩

theorem writeFrame_twin (offset v : Int) :
    SameOutcome (Twin M o o') (writeFrame offset v s) (writeFrame offset v s') := by
  obtain ⟨m, w, hout, rfl, hm⟩ := h
  refine ⟨fun c hc => (writeFrame_error ..).2 ((writeFrame_error offset v c s).1 hc), fun t ht => ?_⟩
  obtain ⟨h0, ha, hcap, rfl⟩ := (writeFrame_ok ..).1 ht
  exact ⟨_, (writeFrame_ok ..).2 ⟨h0, ha, hcap, rfl⟩, _, w, hout, rfl, hM.write hm h0 (by omega) (.inl le_rfl) v⟩

/-! ### The rules -/

theorem arithmetic_twin (f : Int → Int → Int) : SameOutcome (Twin M o o') (arithmetic f s) (arithmetic f s') := by
  have hcfg := cfg_of_twin h
  rw [arithmetic_eq_bind, arithmetic_eq_bind]
  refine pop_bind_twin hM h fun b t t' ht => pop_bind_twin hM ht fun a u u' hu => ?_
  rw [hcfg]
  split
  · exact push_twin hM hu _
  · exact sameOutcome_error _

theorem comparison_twin (f : Int → Int → Bool) : SameOutcome (Twin M o o') (comparison f s) (comparison f s') := by
  rw [comparison_eq_bind, comparison_eq_bind]
  exact pop_bind_twin hM h fun b t t' ht => pop_bind_twin hM ht fun a u u' hu => push_twin hM hu _

omit hM in
theorem jump_twin (target : Int) : Twin M o o' (jump target s) (jump target s') := by
  obtain ⟨m, w, hout, rfl, hm⟩ := h
  exact ⟨m, w, hout, rfl, hm⟩

theorem branchOn_twin (taken target : Int) :
    SameOutcome (Twin M o o') (branchOn taken target s) (branchOn taken target s') := by
  rw [branchOn_eq_bind, branchOn_eq_bind]
  refine pop_bind_twin hM h fun v t t' ht => ?_
  dsimp only
  split
  · exact sameOutcome_ok (jump_twin ht target)
  · exact sameOutcome_ok ht

theorem loadFrame_twin (offset : Int) : SameOutcome (Twin M o o') (loadFrame offset s) (loadFrame offset s') :=
  sameOutcome_bind (readFrame_twin hM h offset) fun v _ hv => hv ▸ push_twin hM h v

theorem loadGlobal_twin (addr : Int) : SameOutcome (Twin M o o') (loadGlobal addr s) (loadGlobal addr s') := by
  have hread : readGlobal addr s' = readGlobal addr s := by
    obtain ⟨m, w, -, rfl, -⟩ := h
    rfl
  refine sameOutcome_bind (R := Eq) (hread ▸ ⟨fun _ hc => hc, fun v hv => ⟨v, hv, rfl⟩⟩) fun v _ hv => ?_
  exact hv ▸ push_twin hM h v

theorem storeFrame_twin (offset : Int) : SameOutcome (Twin M o o') (storeFrame offset s) (storeFrame offset s') :=
  pop_bind_twin hM h fun v _ _ ht => writeFrame_twin hM ht offset v

theorem storeGlobal_twin (addr : Int) : SameOutcome (Twin M o o') (storeGlobal addr s) (storeGlobal addr s') := by
  refine pop_bind_twin hM h fun v t t' ht => ?_
  obtain ⟨m, w, hout, rfl, hm⟩ := ht
  refine ⟨fun c hc => (writeGlobal_error ..).2 ((writeGlobal_error addr v c t).1 hc), fun u hu => ?_⟩
  obtain ⟨hlow, hin, rfl⟩ := (writeGlobal_ok ..).1 hu
  exact ⟨_, (writeGlobal_ok ..).2 ⟨hlow, hin, rfl⟩, m, w, hout, rfl, hm⟩

theorem output_twin : SameOutcome (Twin M o o') (output s) (output s') := by
  rw [output_eq_bind, output_eq_bind]
  refine pop_bind_twin hM h fun v t t' ht => sameOutcome_ok ?_
  obtain ⟨m, w, hout, rfl, hm⟩ := ht
  exact ⟨m, w ++ [v], by simp [hout], by simp [emit], hm⟩

theorem callFrame_twin (target n : Int) :
    SameOutcome (Twin M o o') (callFrame target n s) (callFrame target n s') := by
  have hregs : s'.fp = s.fp ∧ s'.ip = s.ip := by
    obtain ⟨m, w, -, rfl, -⟩ := h
    exact ⟨rfl, rfl⟩
  rw [callFrame_eq_bind, callFrame_eq_bind, hregs.1, hregs.2]
  refine sameOutcome_bind (push_twin hM h n) fun _ _ h₁ => sameOutcome_bind (push_twin hM h₁ s.fp) fun _ _ h₂ =>
    sameOutcome_bind (push_twin hM h₂ s.ip) fun _ _ h₃ => sameOutcome_ok ?_
  obtain ⟨m, w, hout, rfl, hm⟩ := h₃
  exact ⟨m, w, hout, rfl, hm⟩

/-- RET sets `sp` to `fp`, which can be above it, so the memories must be related under any `sp`. -/
theorem returnFrame_twin (hany : ∀ {top m m'}, M top m m' → ∀ newTop, M newTop m m') :
    SameOutcome (Twin M o o') (returnFrame s) (returnFrame s') := by
  have hrestore {t t' : State} (ht : Twin M o o' t t') : SameOutcome (Twin M o o') (restoreSp t) (restoreSp t') := by
    obtain ⟨m, w, hout, rfl, hm⟩ := ht
    refine ⟨fun c hc => (restoreSp_error ..).2 ((restoreSp_error c t).1 hc), fun u hu => ?_⟩
    obtain ⟨h0, hcap, rfl⟩ := (restoreSp_ok ..).1 hu
    exact ⟨_, (restoreSp_ok ..).2 ⟨h0, hcap, rfl⟩, m, w, hout, rfl, hany hm _⟩
  have hdiscard {t t' : State} (n : Int) (ht : Twin M o o' t t') :
      SameOutcome (Twin M o o') (discardArgs n t) (discardArgs n t') := by
    obtain ⟨m, w, hout, rfl, hm⟩ := ht
    refine ⟨fun c hc => (discardArgs_error ..).2 ((discardArgs_error n c t).1 hc), fun u hu => ?_⟩
    obtain ⟨h0, hle, rfl⟩ := (discardArgs_ok ..).1 hu
    exact ⟨_, (discardArgs_ok ..).2 ⟨h0, hle, rfl⟩, m, w, hout, rfl, hany hm _⟩
  rw [returnFrame_eq_bind, returnFrame_eq_bind]
  refine pop_bind_twin hM h fun rv _ _ h₁ => sameOutcome_bind (hrestore h₁) fun _ _ h₂ =>
    pop_bind_twin hM h₂ fun r _ _ h₃ => pop_bind_twin hM h₃ fun f _ _ h₄ => pop_bind_twin hM h₄ fun n _ _ h₅ =>
    sameOutcome_bind (hdiscard n h₅) fun _ _ h₆ => sameOutcome_bind (push_twin hM h₆ rv) fun _ _ h₇ =>
    sameOutcome_ok ?_
  obtain ⟨m, w, hout, rfl, hm⟩ := h₇
  exact ⟨m, w, hout, rfl, hm⟩

theorem ruleOf_twin {i : Instr} (hany : i = .ret → ∀ {top m m'}, M top m m' → ∀ newTop, M newTop m m') (a : Int) :
    SameOutcome (Twin M o o') (ruleOf a i s) (ruleOf a i s') := by
  cases i with
  | invalid => exact sameOutcome_ok h
  | iadd | isub | imul => exact arithmetic_twin hM h _
  | ilt | ieq =>
    rw [ruleOf]
    exact comparison_twin hM h _
  | br target => exact sameOutcome_ok (jump_twin h target)
  | brt target | brf target => exact branchOn_twin hM h _ target
  | iconst literal => exact push_twin hM h literal
  | load offset => exact loadFrame_twin hM h offset
  | gload addr => exact loadGlobal_twin hM h addr
  | store offset => exact storeFrame_twin hM h offset
  | gstore addr => exact storeGlobal_twin hM h addr
  | puts => exact output_twin hM h
  | pop => exact pop_bind_twin hM h fun _ _ _ ht => sameOutcome_ok ht
  | call target n => exact callFrame_twin hM h target n
  | ret => exact returnFrame_twin hM h (hany rfl)
  | halt =>
    obtain ⟨m, w, hout, rfl, hm⟩ := h
    exact sameOutcome_ok ⟨m, w, hout, rfl, hm⟩

/-- An instruction does the same in the two states, in a condition too: `STATUS` takes it alike. -/
theorem exec_twin {i : Instr} (hany : i = .ret → ∀ {top m m'}, M top m m' → ∀ newTop, M newTop m m') {t : State}
    (hexec : exec i s = .next t) : ∃ t', exec i s' = .next t' ∧ Twin M o o' t t' := by
  obtain ⟨m, w, hout, rfl, hm⟩ := h
  obtain ⟨rfl, rfl⟩ | ⟨hi, hrule⟩ := (exec_next ..).1 hexec
  · exact ⟨_, rfl, m, w, hout, rfl, hm⟩
  · have hadvanced : Twin M o o' (advance i s) (advance i { s with stack := m, out := o' ++ w }) :=
      ⟨m, w, hout, rfl, hm⟩
    obtain ⟨herror, hok⟩ := ruleOf_twin hM hadvanced hany s.ip
    obtain hrule | ⟨c, hrule, rfl⟩ := hrule
    · obtain ⟨t', hrule', ht⟩ := hok t hrule
      exact ⟨t', (exec_next ..).2 (.inr ⟨hi, .inl hrule'⟩), ht⟩
    · exact ⟨_, (exec_next ..).2 (.inr ⟨hi, .inr ⟨c, herror c hrule, rfl⟩⟩), m, w, hout, rfl, hm⟩

end Rules

/-! ### OUT -/

/-- Two equal memories, whatever `sp` is. -/
theorem stackRelation_eq : StackRelation fun _ m m' => m' = m where
  live := fun h _ _ => h ▸ rfl
  lower := fun h _ _ => h
  write := fun h _ _ _ _ _ _ => h ▸ rfl

theorem step_twin_out {o o' : List Int} {s s' t : State} (h : Twin (fun _ m m' => m' = m) o o' s s')
    (hstep : step s = .next t) : ∃ t', step s' = .next t' ∧ Twin (fun _ m m' => m' = m) o o' t t' := by
  obtain ⟨hs, hfetch⟩ := (step_next s t).1 hstep
  obtain ⟨i, hfetch, hexec⟩ | hends := hfetch
  · obtain ⟨t', hexec', ht⟩ := exec_twin stackRelation_eq h (fun _ _ _ _ hm _ => hm) hexec
    obtain ⟨m, w, -, rfl, -⟩ := h
    exact ⟨t', (step_next ..).2 ⟨hs, .inl ⟨i, hfetch, hexec'⟩⟩, ht⟩
  · obtain ⟨m, w, hout, rfl, hm⟩ := h
    obtain ⟨hfetch, rfl⟩ | ⟨op, hfetch, rfl⟩ | ⟨op, c, hfetch, rfl⟩ := hends
    · exact ⟨_, step_of_endOfCode hs hfetch, m, w, hout, rfl, hm⟩
    · exact ⟨_, step_of_unknown hs hfetch, m, w, hout, rfl, hm⟩
    · exact ⟨_, step_of_fatal hs hfetch, m, w, hout, rfl, hm⟩

/-- Settles O54: the fetch does not look at `OUT`, and the rules append the same elements to any trace. -/
theorem noInstructionReadsTheOutput : Obligations.NoInstructionReadsTheOutput := by
  intro s t o hstep
  have htwin : Twin (fun _ m m' => m' = m) s.out o s { s with out := o } := ⟨s.stack, [], by simp, by simp, rfl⟩
  obtain ⟨t', hstep', m, w, hout, rfl, rfl⟩ := step_twin_out htwin hstep
  exact ⟨w, hout, hstep'⟩

/-! ### Slots above `sp` -/

/-- Two memories whose live stacks are the same. -/
theorem stackRelation_live : StackRelation fun top m m' => ∀ a, a ≤ top → m'.cell a = m.cell a where
  live := fun h a ha => h a ha
  lower := fun h _ hlow a ha => h a (ha.trans hlow)
  write := fun h a newTop h0 _ htop v b hb => by
    rw [cell_write _ h0, cell_write _ h0]
    split
    · rfl
    · exact h b (by omega)

/-- Settles O55: every rule but RET's reads and writes the live stack and the slot above it alone. -/
theorem deadSlotsAreReadByRetOnly : Obligations.DeadSlotsAreReadByRetOnly := by
  intro i s t m hi hm hexec
  have htwin : Twin (fun top m m' => ∀ a, a ≤ top → m'.cell a = m.cell a) s.out s.out s { s with stack := m } :=
    ⟨m, [], by simp, by simp, hm⟩
  obtain ⟨t', hexec', m', w, hout, rfl, hlive⟩ := exec_twin stackRelation_live htwin (fun hret => absurd hret hi) hexec
  exact ⟨_, hexec', by rw [← hout], hlive⟩

end Sys2Proof.Machine
end

section
/-! PROOF. Conventions of two instructions together: the frame that CALL lays out and RET takes down, and GSTORE followed
by GLOAD (spec/44_call_return.md R140 to R143, spec/43_data_movement.md R122, R124). -/

namespace Sys2Proof.Machine

theorem completes_mono {i : Instr} {s : State} {P Q : State → Prop} (h : Completes i s P) (hPQ : ∀ t, P t → Q t) :
    Completes i s Q := by
  obtain ⟨t, hexec, hP⟩ := h
  exact ⟨t, hexec, hPQ t hP⟩

/-- Settles O56: the header words lie in the three slots CALL wrote, and the arguments where they were. -/
theorem callLaysOutTheFrame : Obligations.CallLaysOutTheFrame := by
  intro s target args hsp hroom hargs
  obtain ⟨-, hcall, -⟩ := callBuildsTheFrameHeader s target args.length hsp
  refine completes_mono (hcall hroom) ?_
  rintro t ⟨-, -, hfp, -, hcount, hsaved, hreturn, hother, -, -⟩
  rw [hfp, show s.sp + 3 - 1 = s.sp + 2 by omega, show s.sp + 3 - 2 = s.sp + 1 by omega]
  refine ⟨hreturn, hsaved, hcount, fun j v hj => ?_⟩
  have hlt : j < args.length := (List.getElem?_eq_some_iff.1 hj).1
  rw [hother _ (by omega) (by omega) (by omega), ← hargs j v hj]
  congr 1
  omega

/-- Settles O57: RET reads the header where CALL wrote it, and writes no slot below the return value's. -/
theorem retUndoesCall : Obligations.RetUndoesCall := by
  intro s target n hsp hroom hn0 hn
  obtain ⟨-, hcall, -⟩ := callBuildsTheFrameHeader s target n hsp
  refine completes_mono (hcall hroom) ?_
  rintro t ⟨-, -, hfp, -, hcount, hsaved, hreturn, hother, -, -⟩
  intro u rv hcfg hufp hkept hlow hcap hrv
  obtain ⟨hsp0, -⟩ := hsp
  rw [hfp] at hufp hkept hlow
  have husp : SpInRange u := ⟨by omega, by rwa [hcfg]⟩
  obtain ⟨-, hret⟩ := retTearsDownTheFrame
  obtain ⟨hcompletes, -⟩ := hret u husp
  have hr : u.slot u.fp = some (s.ip + 3) := by rw [hufp, hkept _ le_rfl, hreturn]
  have hf : u.slot (u.fp - 1) = some s.fp := by
    rw [hufp, show s.sp + 3 - 1 = s.sp + 2 by omega, hkept _ (by omega), hsaved]
  have hc : u.slot (u.fp - 2) = some n := by
    rw [hufp, show s.sp + 3 - 2 = s.sp + 1 by omega, hkept _ (by omega), hcount]
  refine completes_mono (hcompletes rv (s.ip + 3) s.fp n (by omega) hrv (by omega) (by rw [hcfg]; omega) hr hf hc hn0
    (by omega)) ?_
  rintro w ⟨hip, hwfp, hwsp, hout, ⟨hwritten, hsame⟩, hglobals, hengine⟩
  refine ⟨hip, hwfp, by omega, hwsp ▸ hwritten, fun a ha => ?_, hglobals, hout, hengine⟩
  rw [hsame a (by omega), hkept a (by omega), hother a (by omega) (by omega) (by omega)]

/-- Settles O58: GSTORE's pop leaves the free slot that GLOAD's push takes. -/
theorem gloadReadsBackGstore : Obligations.GloadReadsBackGstore := by
  intro s addr v hsp h0 hv hlow hin
  obtain ⟨-, hstore, -⟩ := gstoreWritesTheGlobal s addr hsp
  refine completes_mono (hstore v h0 hv hlow hin) ?_
  rintro t ⟨-, htsp, -, -, -, ⟨hwritten, -⟩, hcfg, -⟩
  obtain ⟨-, hcap⟩ := hsp
  have htrange : SpInRange t := ⟨by omega, by rw [hcfg]; omega⟩
  obtain ⟨-, hload, -⟩ := gloadPushesTheGlobal t addr htrange
  refine completes_mono (hload v hlow (by rwa [hcfg]) hwritten (by rw [hcfg]; omega)) ?_
  rintro u ⟨-, husp, -, -, ⟨hpushed, -⟩, hglobals, -⟩
  exact ⟨by omega, husp ▸ hpushed, (hglobals addr).trans hwritten⟩

end Sys2Proof.Machine
end

section
/-! PROOF. The executor's fuel (spec/30_encoding.md R75, spec/70_reset_and_hazards.md R198, R199). -/

namespace Sys2Proof.Machine

theorem runFuel_of_terminal {s : State} (hs : s.status.state ≠ .running) (k : Nat) : runFuel k s = .ended s := by
  cases k <;> simp [runFuel, hs]

theorem runFuel_zero_of_running {s : State} (hs : s.status.state = .running) : runFuel 0 s = .outOfFuel s := by
  simp [runFuel, hs]

theorem runFuel_succ_of_step {s t : State} (h : step s = .next t) (k : Nat) : runFuel (k + 1) s = runFuel k t := by
  simp [runFuel, running_of_step_next h, h]

/-- What a run under `k` units of fuel from `s` reports: an end in a terminal state alone, which more fuel does not
change, and want of fuel in a RUNNING one alone; it is never stuck. -/
def ReportsTruly (k : Nat) (s : State) : Prop :=
  (∀ t, runFuel k s = .ended t → t.status.state ≠ .running ∧ ∀ m, runFuel (k + m) s = .ended t) ∧
  (∀ t, runFuel k s = .outOfFuel t → t.status.state = .running) ∧
  (∀ t, runFuel k s ≠ .stuck t)

theorem reportsTruly_of_terminal {s : State} (hs : s.status.state ≠ .running) (k : Nat) : ReportsTruly k s := by
  simp only [ReportsTruly, runFuel_of_terminal hs]
  refine ⟨fun t ht => ?_, by simp, by simp⟩
  obtain rfl := RunResult.ended.inj ht
  exact ⟨hs, fun _ => rfl⟩

theorem reportsTruly_zero_of_running {s : State} (hs : s.status.state = .running) : ReportsTruly 0 s := by
  simp only [ReportsTruly, runFuel_zero_of_running hs]
  refine ⟨by simp, fun t ht => ?_, by simp⟩
  obtain rfl := RunResult.outOfFuel.inj ht
  exact hs

theorem reportsTruly_succ_of_step {s t : State} {k : Nat} (h : step s = .next t) (ht : ReportsTruly k t) :
    ReportsTruly (k + 1) s := by
  simpa only [ReportsTruly, Nat.add_right_comm k 1, runFuel_succ_of_step h] using ht

/-- Settles O59, by induction on the fuel: a terminal state ends the run at once with any fuel, and a RUNNING one has a
next state, from which the run goes on with one unit less. -/
theorem fuelIsNoStatus : Obligations.FuelIsNoStatus := by
  intro k
  induction k with
  | zero =>
    intro s
    by_cases hs : s.status.state = .running
    · exact reportsTruly_zero_of_running hs
    · exact reportsTruly_of_terminal hs 0
  | succ k ih =>
    intro s
    by_cases hs : s.status.state = .running
    · obtain ⟨t, ht⟩ := exists_step_next hs
      exact reportsTruly_succ_of_step ht (ih t)
    · exact reportsTruly_of_terminal hs (k + 1)

end Sys2Proof.Machine
end
